-- ==== Sys2Proof/Config.lean ====
section
/-!
DEFINITION. Sizes the spec fixes (00_scope.md R3) and the terminator of the text layer (10_state.md R24). The width of a word stands
in its type (Word.lean). The core leaves
no value of a computation open (93_implementation_defined.md section 1), so there is no free value here. The spec's open parameters
RESET_STYLE and CYCLES_PER_STEP (92_eei_decisions.md D2, D17) are read by no rule and are not in the model (log 12).
-/

namespace Sys2Proof.Config

/-- ILEN, the width of an instruction word (00_scope.md R3, 30_encoding.md R40). -/
abbrev ilen : Nat := 16

/-- NREG, the number of register indices, 0 to 15 (00_scope.md R3, 10_state.md R10). -/
abbrev nreg : Nat := 16

/-- The line terminator of the text forms, a single line feed (10_state.md R24, 92_eei_decisions.md D18; DESIGN CHOICE, log 9). -/
def lineTerminator : Char := '\n'

end Sys2Proof.Config
end

