-- ==== Sys2Proof/Word.lean ====
section
/-!
DEFINITION. The 16-bit word, the 4-bit field, the register index, and the two readings of a word (00_scope.md R4, R5 and the
primitives of its section 6).
-/

namespace Sys2Proof

/-- A register value, an operand, a result or an instruction word (00_scope.md R3, R5; 30_encoding.md R40). -/
abbrev Word := BitVec 16

/-- One of the four 4-bit fields of an instruction word (30_encoding.md R41). -/
abbrev Nibble := BitVec 4

/-- A register index, 0 to 15 (00_scope.md R3, 10_state.md R10). -/
abbrev RegIdx := Fin 16

/-- The unsigned reading of a pattern (00_scope.md R5). -/
def unsigned (p : Word) : Nat := p.toNat

/-- The signed reading of a pattern: `p` if bit 15 is 0, else `p - 65536` (00_scope.md R5; the 16-bit formula is the spec's
general-knowledge passage K2, log 8). -/
def signed (p : Word) : Int := if p.getLsbD 15 then (p.toNat : Int) - 65536 else (p.toNat : Int)

/-- An integer reduced modulo 65536 to a pattern (00_scope.md section 6, `trunc16`). -/
def trunc16 (n : Int) : Word := BitVec.ofInt 16 n

end Sys2Proof
end

