-- ==== Sys2Proof/AsmSyntax.lean ====
section
/-!
DEFINITION. The written form of an instruction before its operands are checked (30_encoding.md R50, R51): register numbers and
constants as a programmer writes them, which may be out of range. It has no behaviour of its own (92_eei_decisions.md D11); the
checks are in WellFormed.lean and the assembler in Machine/Assembly.lean.
-/

namespace Sys2Proof

/-- The mnemonics of the register-register class (30_encoding.md R42). -/
inductive RegOp where
  | add | sub | and | or | xor | sll | srl | sra
  deriving DecidableEq, Repr

/-- The mnemonics whose operand 2 is a signed immediate (30_encoding.md R50). -/
inductive ImmOp where
  | addi | andi | ori | xori
  deriving DecidableEq, Repr

/-- The mnemonics whose operand 2 is a shift amount (30_encoding.md R50). -/
inductive ShiftOp where
  | slli | srli | srai
  deriving DecidableEq, Repr

/-- How a constant is written: as a signed decimal, or as the 16-bit pattern it extends to (30_encoding.md R51). -/
inductive ImmText where
  | decimal (k : Int)
  | pattern (p : Nat)
  deriving DecidableEq, Repr

/-- One written instruction (30_encoding.md R50). -/
inductive AsmInstr where
  /-- `MOV rD, rS1` -/
  | mov (rD rS1 : Nat)
  /-- `ADD rD, rS1, rS2` and the seven like it -/
  | reg (op : RegOp) (rD rS1 rS2 : Nat)
  /-- `ADDI rD, rS1, imm` and the three like it -/
  | imm (op : ImmOp) (rD rS1 : Nat) (imm : ImmText)
  /-- `SLLI rD, rS1, shamt` and the two like it -/
  | shift (op : ShiftOp) (rD rS1 shamt : Nat)
  deriving DecidableEq, Repr

end Sys2Proof
end

