-- ==== Sys2Proof/Syntax.lean ====
section
/-!
DEFINITION. The instruction set: one constructor per row of spec/opcode_table.json (30_encoding.md R45). Operands stand in the order
of the written form, destination first (R50): `d` the register written, `s` the register read as operand 1, then operand 2 by class (R42).
-/

namespace Sys2Proof

/-- The sixteen instructions (30_encoding.md R45). `mov` carries the four bits it ignores, because the result record shows the
executed word unchanged (30_encoding.md R47, 10_state.md R20; log 13). -/
inductive Instr where
  /-- MOV, opcode 0x0 (41_mov.md R70). -/
  | mov (d s : RegIdx) (ignored : Nibble)
  /-- ADD, opcode 0x1 (42_arith_reg.md R73). -/
  | add (d s t : RegIdx)
  /-- SUB, opcode 0x2 (42_arith_reg.md R74). -/
  | sub (d s t : RegIdx)
  /-- AND, opcode 0x3 (43_logic_reg.md R75). -/
  | and (d s t : RegIdx)
  /-- OR, opcode 0x4 (43_logic_reg.md R76). -/
  | or (d s t : RegIdx)
  /-- XOR, opcode 0x5 (43_logic_reg.md R77). -/
  | xor (d s t : RegIdx)
  /-- SLL, opcode 0x6 (44_shift_reg.md R80). -/
  | sll (d s t : RegIdx)
  /-- SRL, opcode 0x7 (44_shift_reg.md R81). -/
  | srl (d s t : RegIdx)
  /-- SRA, opcode 0x8 (44_shift_reg.md R82). -/
  | sra (d s t : RegIdx)
  /-- ADDI, opcode 0x9 (45_arith_logic_imm.md R85). -/
  | addi (d s : RegIdx) (imm : Nibble)
  /-- ANDI, opcode 0xA (45_arith_logic_imm.md R86). -/
  | andi (d s : RegIdx) (imm : Nibble)
  /-- ORI, opcode 0xB (45_arith_logic_imm.md R87). -/
  | ori (d s : RegIdx) (imm : Nibble)
  /-- XORI, opcode 0xC (45_arith_logic_imm.md R88). -/
  | xori (d s : RegIdx) (imm : Nibble)
  /-- SLLI, opcode 0xD (46_shift_imm.md R91). -/
  | slli (d s : RegIdx) (shamt : Nibble)
  /-- SRLI, opcode 0xE (46_shift_imm.md R92). -/
  | srli (d s : RegIdx) (shamt : Nibble)
  /-- SRAI, opcode 0xF (46_shift_imm.md R93). -/
  | srai (d s : RegIdx) (shamt : Nibble)
  deriving DecidableEq, Repr

end Sys2Proof
end

