-- ==== Sys2Proof/WellFormed.lean ====
section
/-!
DEFINITION. Which instructions are legal. Every value of `Instr` is (30_encoding.md R46: "No field value is illegal"): the bounds
of register numbers and fields are in its types, as they are in the word. The checks that can fail are those of the written form (R51).
-/

namespace Sys2Proof

/-- Every instruction is legal, whatever its operands (30_encoding.md R46). -/
def Instr.wellFormed : Instr → Bool
  | .mov _ _ _ | .add _ _ _ | .sub _ _ _ | .and _ _ _ | .or _ _ _ | .xor _ _ _ => true
  | .sll _ _ _ | .srl _ _ _ | .sra _ _ _ => true
  | .addi _ _ _ | .andi _ _ _ | .ori _ _ _ | .xori _ _ _ => true
  | .slli _ _ _ | .srli _ _ _ | .srai _ _ _ => true

/-- A register is written `r0` to `r15` (30_encoding.md R50). -/
def regInRange (n : Nat) : Bool := n < Config.nreg

/-- A signed decimal immediate is -8 to 7 (30_encoding.md R51). -/
def decimalInRange (k : Int) : Bool := -8 ≤ k && k ≤ 7

/-- The patterns a 4-bit field extends to: 0x0000 to 0x0007 and 0xFFF8 to 0xFFFF (30_encoding.md R51). -/
def patternInRange (p : Nat) : Bool := p ≤ 0x0007 || (0xFFF8 ≤ p && p ≤ 0xFFFF)

/-- A shift amount is written 0 to 15 (30_encoding.md R51). -/
def shamtInRange (n : Nat) : Bool := n ≤ 15

/-- A constant in the form and range its mnemonic allows; the pattern form belongs to ANDI, ORI and XORI (30_encoding.md R51). -/
def ImmText.allowedFor : ImmText → ImmOp → Bool
  | .decimal k, _ => decimalInRange k
  | .pattern _, .addi => false
  | .pattern p, .andi => patternInRange p
  | .pattern p, .ori => patternInRange p
  | .pattern p, .xori => patternInRange p

/-- A written instruction the assembler accepts (30_encoding.md R50, R51). -/
def AsmInstr.wellFormed : AsmInstr → Bool
  | .mov d s => regInRange d && regInRange s
  | .reg _ d s t => regInRange d && regInRange s && regInRange t
  | .imm op d s k => regInRange d && regInRange s && k.allowedFor op
  | .shift _ d s n => regInRange d && regInRange s && shamtInRange n

end Sys2Proof
end

