-- ==== Sys2Proof/Decode.lean ====
section
/-!
DEFINITION. From words to instructions and back: the fields (30_encoding.md R41), the immediate (R43), the decoder (R45, R46), the
opcode table as rows of mask and match, the decoder's control outputs (R53), and the encoder. Decoding never fails on a word; the
one rejection is of a table row that is no single 16-bit word (R40).
-/

namespace Sys2Proof

/-! ## Fields of a word (30_encoding.md R41) -/

/-- `opcode = w[15:12]`. -/
def opcodeField (w : Word) : Nibble := w.extractLsb' 12 4

/-- `dest_reg = w[11:8]`. -/
def destField (w : Word) : RegIdx := (w.extractLsb' 8 4).toFin

/-- `src1_reg = w[7:4]`. -/
def src1Field (w : Word) : RegIdx := (w.extractLsb' 4 4).toFin

/-- `src2_field = w[3:0]`. -/
def src2Field (w : Word) : Nibble := w.extractLsb' 0 4

/-- `src2_field` read as a register index, `src2_reg` (30_encoding.md R42). -/
def src2Reg (w : Word) : RegIdx := (src2Field w).toFin

/-- A register index as its 4-bit field: "`rN` encodes as the 4-bit number N" (30_encoding.md R51). -/
def regField (r : RegIdx) : Nibble := BitVec.ofFin r

/-- The four fields as one word, `opcode` in the highest bits (30_encoding.md R41). -/
def packWord (op : Nibble) (d s : RegIdx) (f : Nibble) : Word := op ++ regField d ++ regField s ++ f

/-- `sext_16`: "if bit 3 of the field is set, the upper 12 bits are set to 1; otherwise they are 0" (30_encoding.md R43). -/
def sext16 (v : Nibble) : Word := (if v.getLsbD 3 then 0xFFF#12 else 0x000#12) ++ v

/-! ## The decoder (30_encoding.md R45) -/

/-- The instruction of a word: a complete 16-way case on the four opcode bits, written here from bit 15 down as the spec's bit
patterns are (30_encoding.md R45). There is no default arm (R49). -/
def decode (w : Word) : Instr :=
  let d := destField w
  let s := src1Field w
  let f := src2Field w
  let t := src2Reg w
  match (opcodeField w).getLsbD 3, (opcodeField w).getLsbD 2, (opcodeField w).getLsbD 1, (opcodeField w).getLsbD 0 with
  | false, false, false, false => .mov d s f
  | false, false, false, true => .add d s t
  | false, false, true, false => .sub d s t
  | false, false, true, true => .and d s t
  | false, true, false, false => .or d s t
  | false, true, false, true => .xor d s t
  | false, true, true, false => .sll d s t
  | false, true, true, true => .srl d s t
  | true, false, false, false => .sra d s t
  | true, false, false, true => .addi d s f
  | true, false, true, false => .andi d s f
  | true, false, true, true => .ori d s f
  | true, true, false, false => .xori d s f
  | true, true, false, true => .slli d s f
  | true, true, true, false => .srli d s f
  | true, true, true, true => .srai d s f

/-- Why a table word is not decoded. -/
inductive DecodeError where
  /-- The instruction is longer than the one 16-bit word of 30_encoding.md R40. -/
  | notOneWord
  deriving DecidableEq, Repr

/-- The word of a table row of `nbits` bits, the bits above them 0 (30_encoding.md R40; log 16). -/
def wordOfTable (nbits w : Nat) : Word := BitVec.ofNat 16 (w % 2 ^ nbits)

/-- Decoding a table row by its length: total, rejecting by name what is longer than one word (log 16). -/
def decodeSized (nbits w : Nat) : Except DecodeError Instr :=
  if nbits ≤ Config.ilen then .ok (decode (wordOfTable nbits w)) else .error .notOneWord

/-- The instruction the decoder reads from a table row's bits, bit 0 the least significant bit of the word (00_scope.md R4). The
core has no bytes and no byte order (20_memory.md R33, R34), so there is nothing to lay out (log 16). -/
def decodeTableWord (nbits w : Nat) : Option Instr :=
  match decodeSized nbits w with
  | .ok i => some i
  | .error .notOneWord => none

/-! ## The encoder (30_encoding.md R45, R51) -/

/-- The word of an instruction: `opcode dest_reg src1_reg src2_field` (30_encoding.md R41, R45). -/
def encode : Instr → Word
  | .mov d s f => packWord 0x0 d s f
  | .add d s t => packWord 0x1 d s (regField t)
  | .sub d s t => packWord 0x2 d s (regField t)
  | .and d s t => packWord 0x3 d s (regField t)
  | .or d s t => packWord 0x4 d s (regField t)
  | .xor d s t => packWord 0x5 d s (regField t)
  | .sll d s t => packWord 0x6 d s (regField t)
  | .srl d s t => packWord 0x7 d s (regField t)
  | .sra d s t => packWord 0x8 d s (regField t)
  | .addi d s f => packWord 0x9 d s f
  | .andi d s f => packWord 0xA d s f
  | .ori d s f => packWord 0xB d s f
  | .xori d s f => packWord 0xC d s f
  | .slli d s f => packWord 0xD d s f
  | .srli d s f => packWord 0xE d s f
  | .srai d s f => packWord 0xF d s f

/-! ## What an instruction names -/

/-- The register an instruction writes: every instruction has one (40_step_and_writeback.md R65). -/
def Instr.dest : Instr → RegIdx
  | .mov d _ _ | .add d _ _ | .sub d _ _ | .and d _ _ | .or d _ _ | .xor d _ _ | .sll d _ _ | .srl d _ _ => d
  | .sra d _ _ | .addi d _ _ | .andi d _ _ | .ori d _ _ | .xori d _ _ | .slli d _ _ | .srli d _ _ | .srai d _ _ => d

/-- The register read as operand 1, in every class (40_step_and_writeback.md R61). -/
def Instr.src1 : Instr → RegIdx
  | .mov _ s _ | .add _ s _ | .sub _ s _ | .and _ s _ | .or _ s _ | .xor _ s _ | .sll _ s _ | .srl _ s _ => s
  | .sra _ s _ | .addi _ s _ | .andi _ s _ | .ori _ s _ | .xori _ s _ | .slli _ s _ | .srli _ s _ | .srai _ s _ => s

/-- The register read as operand 2: the register-register class has one, the other two classes have none (30_encoding.md R42,
R47; 40_step_and_writeback.md R62). -/
def Instr.src2 : Instr → Option RegIdx
  | .add _ _ t | .sub _ _ t | .and _ _ t | .or _ _ t | .xor _ _ t | .sll _ _ t | .srl _ _ t | .sra _ _ t => some t
  | .mov _ _ _ | .addi _ _ _ | .andi _ _ _ | .ori _ _ _ | .xori _ _ _ | .slli _ _ _ | .srli _ _ _ | .srai _ _ _ => none

/-- The mnemonic, as spec/opcode_table.json spells it. -/
def Instr.mnemonic : Instr → String
  | .mov _ _ _ => "MOV"
  | .add _ _ _ => "ADD"
  | .sub _ _ _ => "SUB"
  | .and _ _ _ => "AND"
  | .or _ _ _ => "OR"
  | .xor _ _ _ => "XOR"
  | .sll _ _ _ => "SLL"
  | .srl _ _ _ => "SRL"
  | .sra _ _ _ => "SRA"
  | .addi _ _ _ => "ADDI"
  | .andi _ _ _ => "ANDI"
  | .ori _ _ _ => "ORI"
  | .xori _ _ _ => "XORI"
  | .slli _ _ _ => "SLLI"
  | .srli _ _ _ => "SRLI"
  | .srai _ _ _ => "SRAI"

/-! ## The opcode table as mask and match (30_encoding.md R45) -/

/-- The operand classes (30_encoding.md R42). -/
inductive OpClass where
  | move | registerRegister | registerImmediate
  deriving DecidableEq, Repr

/-- One row: a word `w` is this instruction exactly when `w &&& mask = pattern` (30_encoding.md, opening paragraph). -/
structure OpcodeRow where
  mnemonic : String
  cls : OpClass
  mask : Word
  pattern : Word
  deriving DecidableEq, Repr

/-- The sixteen rows: "the decoding mask is 0xF000 and the match value is `opcode << 12`" (30_encoding.md R45). -/
def opcodeTable : List OpcodeRow :=
  [⟨"MOV", .move, 0xF000, 0x0000⟩,
   ⟨"ADD", .registerRegister, 0xF000, 0x1000⟩,
   ⟨"SUB", .registerRegister, 0xF000, 0x2000⟩,
   ⟨"AND", .registerRegister, 0xF000, 0x3000⟩,
   ⟨"OR", .registerRegister, 0xF000, 0x4000⟩,
   ⟨"XOR", .registerRegister, 0xF000, 0x5000⟩,
   ⟨"SLL", .registerRegister, 0xF000, 0x6000⟩,
   ⟨"SRL", .registerRegister, 0xF000, 0x7000⟩] ++
  [⟨"SRA", .registerRegister, 0xF000, 0x8000⟩,
   ⟨"ADDI", .registerImmediate, 0xF000, 0x9000⟩,
   ⟨"ANDI", .registerImmediate, 0xF000, 0xA000⟩,
   ⟨"ORI", .registerImmediate, 0xF000, 0xB000⟩,
   ⟨"XORI", .registerImmediate, 0xF000, 0xC000⟩,
   ⟨"SLLI", .registerImmediate, 0xF000, 0xD000⟩,
   ⟨"SRLI", .registerImmediate, 0xF000, 0xE000⟩,
   ⟨"SRAI", .registerImmediate, 0xF000, 0xF000⟩]

/-- The word is the row's instruction. -/
def OpcodeRow.matchesWord (r : OpcodeRow) (w : Word) : Bool := w &&& r.mask == r.pattern

/-! ## Decoder outputs (30_encoding.md R53) -/

/-- The nine ALU functions (30_encoding.md R53, 40_step_and_writeback.md R64). -/
inductive AluOp where
  | mova | add | sub | and | or | xor | sll | srl | sra
  deriving DecidableEq, Repr

/-- What the decoder drives to the rest of the core (30_encoding.md R53). -/
structure DecoderOutputs where
  opcode : Nibble
  destReg : RegIdx
  src1Reg : RegIdx
  src2Reg : RegIdx
  src2Imm : Word
  bIsImm : Bool
  aluOp : AluOp
  wrEn : Bool
  deriving DecidableEq, Repr

/-- The `alu_op` column, one line per opcode number (30_encoding.md R53). -/
def aluOpOf (op : Nibble) : AluOp :=
  if op = 0x0 then .mova
  else if op = 0x1 ∨ op = 0x9 then .add
  else if op = 0x2 then .sub
  else if op = 0x3 ∨ op = 0xA then .and
  else if op = 0x4 ∨ op = 0xB then .or
  else if op = 0x5 ∨ op = 0xC then .xor
  else if op = 0x6 ∨ op = 0xD then .sll
  else if op = 0x7 ∨ op = 0xE then .srl
  else .sra

/-- The decoder's outputs for a word (30_encoding.md R53). -/
def decoderOutputs (w : Word) : DecoderOutputs where
  opcode := opcodeField w
  destReg := destField w
  src1Reg := src1Field w
  src2Reg := src2Reg w
  src2Imm := sext16 (src2Field w)
  bIsImm := decide (0x9#4 ≤ opcodeField w)
  aluOp := aluOpOf (opcodeField w)
  wrEn := decide (destField w ≠ 0)

end Sys2Proof
end

