-- ==== Sys2Proof/Machine/Alu.lean ====
section
/-!
DEFINITION. The nine functions of the ALU (40_step_and_writeback.md R63, R64): pure functions of their operands, 16 bits in and 16
bits out, with no carry, no flag and no trap.
-/

namespace Sys2Proof.Machine

/-- `add16`: addition modulo 65536 (42_arith_reg.md R72). -/
def add16 (a b : Word) : Word := a + b

/-- `sub16`: subtraction modulo 65536 (42_arith_reg.md R72). -/
def sub16 (a b : Word) : Word := a - b

/-- Bitwise AND (43_logic_reg.md R75). -/
def and16 (a b : Word) : Word := a &&& b

/-- Bitwise OR (43_logic_reg.md R76). -/
def or16 (a b : Word) : Word := a ||| b

/-- Bitwise exclusive OR (43_logic_reg.md R77). -/
def xor16 (a b : Word) : Word := a ^^^ b

/-- "Shift amounts are always masked to the low 4 bits" (44_shift_reg.md R79, 46_shift_imm.md R90). -/
def shiftAmount (b : Word) : Nat := (b &&& 0x000F).toNat

/-- Shift left logical: zeros enter at bit 0 (44_shift_reg.md R78, R80; log 8). -/
def sll16 (a : Word) (n : Nat) : Word := a <<< n

/-- Shift right logical: zeros enter at bit 15 (44_shift_reg.md R78, R81; log 8). -/
def srl16 (a : Word) (n : Nat) : Word := a >>> n

/-- Shift right arithmetic: copies of bit 15 enter at bit 15 (44_shift_reg.md R78, R82; log 8). -/
def sra16 (a : Word) (n : Nat) : Word := a.sshiftRight n

/-- The ALU with its result multiplexer: one of nine functions of (A, B) (40_step_and_writeback.md R64). -/
def alu (op : AluOp) (a b : Word) : Word :=
  match op with
  | .mova => a
  | .add => add16 a b
  | .sub => sub16 a b
  | .and => and16 a b
  | .or => or16 a b
  | .xor => xor16 a b
  | .sll => sll16 a (shiftAmount b)
  | .srl => srl16 a (shiftAmount b)
  | .sra => sra16 a (shiftAmount b)

end Sys2Proof.Machine
end

