-- ==== Sys2Proof/Machine/State.lean ====
section
/-!
DEFINITION. The state of the machine as plain data: the register file, the driver's pin samples still to come, the record on the
output pins, and the records of the run so far. Also the reasons a step could stop, and the state after reset.
-/

namespace Sys2Proof.Machine

/-- The register file: the fifteen stored registers r1 to r15, r1 first (10_state.md R10, R11). r0 is a constant and has no cell
(10_state.md R11, 92_eei_decisions.md D3; log 7). -/
structure RegFile where
  cells : Vector Word 15
  deriving DecidableEq, Repr

/-- The execution result record (10_state.md R20). -/
structure Record where
  /-- the executed word, unchanged (`rec_instr`) -/
  instr : Word
  /-- bits [11:8] of the word (`rec_dest`) -/
  dest : RegIdx
  /-- the value written, or 0 when `dest` is 0 (`rec_value`) -/
  value : Word
  deriving DecidableEq, Repr

/-- The input pins in one step (10_state.md R19). `clk` is no field: a step is one event (log 12). -/
structure Pins where
  rst : Bool
  instrValid : Bool
  instr : Word
  deriving DecidableEq, Repr

/-- What the pins of one step ask of the core. -/
inductive Event where
  /-- `rst` is asserted (70_reset_and_hazards.md R120) -/
  | reset
  /-- no instruction is presented (70_reset_and_hazards.md R128) -/
  | idle
  /-- an instruction word is presented (10_state.md R19) -/
  | instruction (w : Word)
  deriving DecidableEq, Repr

/-- The machine. The spec's architectural state is `regs` alone (10_state.md R15); the other three fields are the interface of
10_state.md R19 to R21 held as data. -/
structure State where
  /-- r1 to r15 (10_state.md R10) -/
  regs : RegFile
  /-- what the driver will put on the input pins, the next step's sample first; empty when it has presented its last word
  (20_memory.md R31, 10_state.md R16; log 1, log 2) -/
  inputs : List Pins
  /-- the output pins after the last step: `rec_valid` is `record.isSome` (10_state.md R19, R20; log 4, log 6) -/
  record : Option Record
  /-- the records of the current run, oldest first (10_state.md R21, 70_reset_and_hazards.md R123; log 5) -/
  trace : List Record
  deriving DecidableEq, Repr

/-- Why a step could fault. -/
inductive Fault where
  /-- The source's fatal error for an opcode outside the sixteen (60_exceptions.md R100 to R102). Raised by nothing: the decoder
  has no default arm (R103), and `Obligations.StepAlwaysAnswersNextState` states it. Kept for fidelity to the source; safe. -/
  | unknownOpcode
  deriving DecidableEq, Repr

/-- Why the model could refuse. -/
inductive Refusal where
  /-- An instruction without a meaning, by its mnemonic. Raised by no arm of `exec`: all sixteen have their meaning. Safe. -/
  | notModelled (mnemonic : String)
  /-- The driver's fatal error for an input line that is not four hexadecimal digits and a terminator (60_exceptions.md R100,
  R104). Raised by `State.driveText` of Machine/Text.lean (which Machine/Driver.lean runs), never by a step. Safe: a refused run claims nothing (log 10). -/
  | malformedInput
  deriving DecidableEq, Repr

/-- Every stored register 0x0000 (10_state.md R25). -/
def RegFile.zero : RegFile := ⟨Vector.replicate 15 0⟩

/-- The machine right after reset: registers zero, no record yet, and no input listed (70_reset_and_hazards.md R121; log 1). -/
def State.reset : State where
  regs := RegFile.zero
  inputs := []
  record := none
  trace := []

end Sys2Proof.Machine
end

