-- ==== Sys2Proof/Machine/Ops.lean ====
section
/-!
DEFINITION. The named operations every step is made of: reading and writing a register, emitting a record, write-back, and what
the pins of a step do. There is no memory (20_memory.md R30), no exception to take and none to return from (60_exceptions.md
R105, R109, R110), so no operation for them stands here.
-/

namespace Sys2Proof.Machine

/-! ## The register file (10_state.md R10 to R12) -/

/-- `x[i]`: index 0 reads 0x0000, index `n + 1` reads its cell (10_state.md R11). -/
def RegFile.read (x : RegFile) (i : RegIdx) : Word :=
  match i with
  | 0 => 0x0000
  | ⟨n + 1, _⟩ => x.cells[n]

/-- `x[i] <- v`: a write to index 0 is "silently discarded" (10_state.md R11). -/
def RegFile.write (x : RegFile) (i : RegIdx) (v : Word) : RegFile :=
  match i with
  | 0 => x
  | ⟨n + 1, _⟩ => ⟨x.cells.set n v⟩

/-- `x[i]` in a state. -/
def State.readReg (s : State) (i : RegIdx) : Word := s.regs.read i

/-- `x[i] <- v` in a state. -/
def State.writeReg (s : State) (i : RegIdx) (v : Word) : State := { s with regs := s.regs.write i v }

/-! ## Record and write-back (40_step_and_writeback.md R65, R66) -/

/-- The reported value: `dest_value`, or 0x0000 when the destination is r0 (40_step_and_writeback.md R66). -/
def reportedValue (d : RegIdx) (v : Word) : Word := if d = 0 then 0x0000 else v

/-- Puts a record on the output pins and, after the earlier ones, in the trace (10_state.md R21). -/
def State.emit (s : State) (r : Record) : State := { s with record := some r, trace := s.trace ++ [r] }

/-- Write-back of the value `v` computed by instruction `i`: the register, then the record of the word (40_step_and_writeback.md
R65, R66). The record's word is the instruction's encoding (log 14). -/
def State.writeBack (s : State) (i : Instr) (v : Word) : State :=
  (s.writeReg i.dest v).emit ⟨encode i, i.dest, reportedValue i.dest v⟩

/-! ## The pins of a step (10_state.md R19; 70_reset_and_hazards.md R120, R128) -/

/-- What a sample of the pins asks for. `rst` goes before `instr_valid`: while it is asserted the core "produces no record"
(70_reset_and_hazards.md R120; DEDUCED, log 3). -/
def Pins.event (p : Pins) : Event :=
  if p.rst then .reset else if p.instrValid then .instruction p.instr else .idle

/-- The pins while the driver presents the word `w`. -/
def Pins.present (w : Word) : Pins := ⟨false, true, w⟩

/-- The pins while the driver asserts reset. -/
def Pins.assertReset : Pins := ⟨true, false, 0x0000⟩

/-- What the next step is asked to do; after the last sample nothing is presented any more (70_reset_and_hazards.md R123, R128;
DEDUCED, log 2). -/
def State.nextEvent (s : State) : Event :=
  match s.inputs with
  | [] => .idle
  | p :: _ => p.event

/-- The step's sample is taken and the record of the step before is gone from the pins: `rec_valid` is 0 unless this step emits
(10_state.md R19, 70_reset_and_hazards.md R128). Registers and trace hold. -/
def State.advance (s : State) : State := { s with inputs := s.inputs.tail, record := none }

/-- Reset: the state of 10_state.md R25, "whatever it held before", with the driver's later samples still to come
(70_reset_and_hazards.md R120; the trace of the ended run goes with it, log 5). -/
def State.takeReset (s : State) : State := { State.reset with inputs := s.inputs.tail }

end Sys2Proof.Machine
end

