-- ==== Sys2Proof/Machine/Operands.lean ====
section
/-!
DEFINITION. The operand forms (30_encoding.md R42): operand 1 a register in every class; operand 2 a register, the sign-extended
immediate, or a shift amount taken from either; MOV has no operand 2.
-/

namespace Sys2Proof.Machine

/-- Operand 1, `x[src1_reg]` (40_step_and_writeback.md R61). -/
def State.operandA (s : State) (r : RegIdx) : Word := s.readReg r

/-- Operand 2 of the register-register class, `x[src2_reg]` (40_step_and_writeback.md R62). -/
def State.operandReg (s : State) (r : RegIdx) : Word := s.readReg r

/-- Operand 2 of the register-immediate class, `src2_imm`: sign-extended for the logical instructions too (45_arith_logic_imm.md
R84). -/
def operandImm (f : Nibble) : Word := sext16 f

/-- The amount of a register shift, `x[src2_reg] & 0xF` (44_shift_reg.md R79). -/
def State.shamtReg (s : State) (r : RegIdx) : Nat := shiftAmount (s.operandReg r)

/-- The amount of an immediate shift, `src2_imm & 0xF` (46_shift_imm.md R90). -/
def shamtImm (f : Nibble) : Nat := shiftAmount (operandImm f)

end Sys2Proof.Machine
end

