-- ==== Sys2Proof/Machine/ArithLogicImm.lean ====
section
/-!
DEFINITION. ADDI, ANDI, ORI and XORI: operand 2 is the sign-extended immediate (45_arith_logic_imm.md).
-/

namespace Sys2Proof.Machine

/-- ADDI: operand 1 plus the immediate, wrapped (45_arith_logic_imm.md R85). -/
def execAddi (d r : RegIdx) (f : Nibble) (s : State) : Host.Outcome State Fault Refusal :=
  .next (s.writeBack (.addi d r f) (add16 (s.operandA r) (operandImm f)))

/-- ANDI: bitwise AND with the immediate (45_arith_logic_imm.md R86). -/
def execAndi (d r : RegIdx) (f : Nibble) (s : State) : Host.Outcome State Fault Refusal :=
  .next (s.writeBack (.andi d r f) (and16 (s.operandA r) (operandImm f)))

/-- ORI: bitwise OR with the immediate (45_arith_logic_imm.md R87). -/
def execOri (d r : RegIdx) (f : Nibble) (s : State) : Host.Outcome State Fault Refusal :=
  .next (s.writeBack (.ori d r f) (or16 (s.operandA r) (operandImm f)))

/-- XORI: bitwise exclusive OR with the immediate (45_arith_logic_imm.md R88). -/
def execXori (d r : RegIdx) (f : Nibble) (s : State) : Host.Outcome State Fault Refusal :=
  .next (s.writeBack (.xori d r f) (xor16 (s.operandA r) (operandImm f)))

end Sys2Proof.Machine
end

