-- ==== Sys2Proof/Machine/ArithReg.lean ====
section
/-!
DEFINITION. ADD and SUB (42_arith_reg.md).
-/

namespace Sys2Proof.Machine

/-- ADD: operand 1 plus operand 2, wrapped (42_arith_reg.md R73). -/
def execAdd (d r t : RegIdx) (s : State) : Host.Outcome State Fault Refusal :=
  .next (s.writeBack (.add d r t) (add16 (s.operandA r) (s.operandReg t)))

/-- SUB: operand 1 minus operand 2, wrapped (42_arith_reg.md R74). -/
def execSub (d r t : RegIdx) (s : State) : Host.Outcome State Fault Refusal :=
  .next (s.writeBack (.sub d r t) (sub16 (s.operandA r) (s.operandReg t)))

end Sys2Proof.Machine
end

