-- ==== Sys2Proof/Machine/LogicReg.lean ====
section
/-!
DEFINITION. AND, OR and XOR (43_logic_reg.md).
-/

namespace Sys2Proof.Machine

/-- AND: bitwise AND of two registers (43_logic_reg.md R75). -/
def execAnd (d r t : RegIdx) (s : State) : Host.Outcome State Fault Refusal :=
  .next (s.writeBack (.and d r t) (and16 (s.operandA r) (s.operandReg t)))

/-- OR: bitwise OR of two registers (43_logic_reg.md R76). -/
def execOr (d r t : RegIdx) (s : State) : Host.Outcome State Fault Refusal :=
  .next (s.writeBack (.or d r t) (or16 (s.operandA r) (s.operandReg t)))

/-- XOR: bitwise exclusive OR of two registers (43_logic_reg.md R77). -/
def execXor (d r t : RegIdx) (s : State) : Host.Outcome State Fault Refusal :=
  .next (s.writeBack (.xor d r t) (xor16 (s.operandA r) (s.operandReg t)))

end Sys2Proof.Machine
end

