-- ==== Sys2Proof/Machine/Move.lean ====
section
/-!
DEFINITION. MOV (41_mov.md).
-/

namespace Sys2Proof.Machine

/-- MOV: the content of the source register, unchanged; the low four bits select nothing (41_mov.md R70, 30_encoding.md R47). -/
def execMov (d r : RegIdx) (ignored : Nibble) (s : State) : Host.Outcome State Fault Refusal :=
  .next (s.writeBack (.mov d r ignored) (s.operandA r))

end Sys2Proof.Machine
end

