-- ==== Sys2Proof/Machine/ShiftImm.lean ====
section
/-!
DEFINITION. SLLI, SRLI and SRAI: the amount is the field, 0 to 15 (46_shift_imm.md).
-/

namespace Sys2Proof.Machine

/-- SLLI: left shift by the field (46_shift_imm.md R91). -/
def execSlli (d r : RegIdx) (f : Nibble) (s : State) : Host.Outcome State Fault Refusal :=
  .next (s.writeBack (.slli d r f) (sll16 (s.operandA r) (shamtImm f)))

/-- SRLI: logical right shift by the field (46_shift_imm.md R92). -/
def execSrli (d r : RegIdx) (f : Nibble) (s : State) : Host.Outcome State Fault Refusal :=
  .next (s.writeBack (.srli d r f) (srl16 (s.operandA r) (shamtImm f)))

/-- SRAI: arithmetic right shift by the field (46_shift_imm.md R93). -/
def execSrai (d r : RegIdx) (f : Nibble) (s : State) : Host.Outcome State Fault Refusal :=
  .next (s.writeBack (.srai d r f) (sra16 (s.operandA r) (shamtImm f)))

end Sys2Proof.Machine
end

