-- ==== Sys2Proof/Machine/ShiftReg.lean ====
section
/-!
DEFINITION. SLL, SRL and SRA: the amount is the low four bits of a register (44_shift_reg.md).
-/

namespace Sys2Proof.Machine

/-- SLL: left shift (44_shift_reg.md R80). -/
def execSll (d r t : RegIdx) (s : State) : Host.Outcome State Fault Refusal :=
  .next (s.writeBack (.sll d r t) (sll16 (s.operandA r) (s.shamtReg t)))

/-- SRL: logical right shift (44_shift_reg.md R81). -/
def execSrl (d r t : RegIdx) (s : State) : Host.Outcome State Fault Refusal :=
  .next (s.writeBack (.srl d r t) (srl16 (s.operandA r) (s.shamtReg t)))

/-- SRA: arithmetic right shift (44_shift_reg.md R82). -/
def execSra (d r t : RegIdx) (s : State) : Host.Outcome State Fault Refusal :=
  .next (s.writeBack (.sra d r t) (sra16 (s.operandA r) (s.shamtReg t)))

end Sys2Proof.Machine
end

