-- ==== Sys2Proof/Machine/Dispatch.lean ====
section
/-!
DEFINITION. One arm per instruction (40_step_and_writeback.md R60: "opcode selects exactly one of 16 operations").
-/

namespace Sys2Proof.Machine

/-- The effect of one instruction on a state. -/
def exec (i : Instr) (s : State) : Host.Outcome State Fault Refusal :=
  match i with
  | .mov d r ignored => Sys2Proof.Machine.execMov d r ignored s
  | .add d r t => Sys2Proof.Machine.execAdd d r t s
  | .sub d r t => Sys2Proof.Machine.execSub d r t s
  | .and d r t => Sys2Proof.Machine.execAnd d r t s
  | .or d r t => Sys2Proof.Machine.execOr d r t s
  | .xor d r t => Sys2Proof.Machine.execXor d r t s
  | .sll d r t => Sys2Proof.Machine.execSll d r t s
  | .srl d r t => Sys2Proof.Machine.execSrl d r t s
  | .sra d r t => Sys2Proof.Machine.execSra d r t s
  | .addi d r f => Sys2Proof.Machine.execAddi d r f s
  | .andi d r f => Sys2Proof.Machine.execAndi d r f s
  | .ori d r f => Sys2Proof.Machine.execOri d r f s
  | .xori d r f => Sys2Proof.Machine.execXori d r f s
  | .slli d r f => Sys2Proof.Machine.execSlli d r f s
  | .srli d r f => Sys2Proof.Machine.execSrli d r f s
  | .srai d r f => Sys2Proof.Machine.execSrai d r f s

end Sys2Proof.Machine
end

