-- ==== Sys2Proof/Machine/Step.lean ====
section
/-!
DEFINITION. One step: one sample of the input pins (10_state.md R19). A presented word is decoded and executed; an asserted reset
takes the reset state; otherwise the core holds (70_reset_and_hazards.md R120, R128).
-/

namespace Sys2Proof.Machine

/-- One step of the machine (40_step_and_writeback.md R60, R68). -/
def step (s : State) : Host.Outcome State Fault Refusal :=
  match s.nextEvent with
  | .reset => .next s.takeReset
  | .idle => .next s.advance
  | .instruction w => exec (decode w) s.advance

/-- The state with a word as the next one the driver presents: the machine does not fetch, so this stands for the driver putting
the word on `instr` with `instr_valid` 1 (20_memory.md R31; log 1). -/
def State.withFetchWord (s : State) (nbits w : Nat) : State :=
  { s with inputs := Pins.present (wordOfTable nbits w) :: s.inputs }

end Sys2Proof.Machine
end

