-- ==== Sys2Proof/Machine/Flags.lean ====
section
/-!
DEFINITION. There are no flags: "No instruction produces a carry, borrow, overflow, zero or sign indication" (10_state.md R17), so
State has no field for one and no meaning computes one. What R17 offers in their place is a value a program computes into a register:
the sign of a difference, by SUB then SRAI by 15.
-/

namespace Sys2Proof.Machine

/-- What SUB then SRAI by 15 leaves in a register: the sign of the wrapped difference spread over the word (10_state.md R17,
46_shift_imm.md R93). -/
def differenceSign (a b : Word) : Word := sra16 (sub16 a b) 15

end Sys2Proof.Machine
end

