-- ==== Sys2Proof/Machine/Text.lean ====
section
/-!
DEFINITION. The textual forms of the driver (10_state.md R22 to R24): input lines of four hexadecimal digits, trace lines of nine.
The driver is outside the core; its formats are in the spec's scope, and its one error is MalformedInput (60_exceptions.md R104).
-/

namespace Sys2Proof.Machine

/-- The digit a character stands for, in either case (10_state.md R24, 92_eei_decisions.md D12; DESIGN CHOICE, log 9). -/
def hexDigit? : Char → Option Nibble
  | '0' => some 0x0 | '1' => some 0x1 | '2' => some 0x2 | '3' => some 0x3
  | '4' => some 0x4 | '5' => some 0x5 | '6' => some 0x6 | '7' => some 0x7
  | '8' => some 0x8 | '9' => some 0x9
  | 'a' => some 0xA | 'b' => some 0xB | 'c' => some 0xC | 'd' => some 0xD | 'e' => some 0xE | 'f' => some 0xF
  | 'A' => some 0xA | 'B' => some 0xB | 'C' => some 0xC | 'D' => some 0xD | 'E' => some 0xE | 'F' => some 0xF
  | _ => none

/-- The sixteen digits as they are written, letters in lower case (10_state.md R24). -/
def hexDigits : Vector Char 16 := #v['0', '1', '2', '3', '4', '5', '6', '7', '8', '9', 'a', 'b', 'c', 'd', 'e', 'f']

/-- The character written for a digit. -/
def hexChar (v : Nibble) : Char := hexDigits[v.toFin]

/-- Four digits of a word, the most significant first (10_state.md R22, R23). -/
def hexWord (w : Word) : List Char :=
  [hexChar (w.extractLsb' 12 4), hexChar (w.extractLsb' 8 4), hexChar (w.extractLsb' 4 4), hexChar (w.extractLsb' 0 4)]

/-- An input line: the word and the terminator (10_state.md R22). -/
def inputLine (w : Word) : List Char := hexWord w ++ [Config.lineTerminator]

/-- The word of a line, if the line is exactly four hexadecimal digits and the terminator (10_state.md R22; 90_conflicts.md C4). -/
def parseLine : List Char → Option Word
  | [a, b, c, d, t] =>
    if t = Config.lineTerminator then
      match hexDigit? a, hexDigit? b, hexDigit? c, hexDigit? d with
      | some p, some q, some r, some u => some (p ++ q ++ r ++ u)
      | _, _, _, _ => none
    else none
  | _ => none

/-- The words of an input text, line by line; nothing if any line is malformed (60_exceptions.md R104, log 10). The empty text is
the empty program (70_reset_and_hazards.md R123). -/
def parseInput : List Char → Option (List Word)
  | [] => some []
  | a :: b :: c :: d :: t :: rest =>
    match parseLine [a, b, c, d, t], parseInput rest with
    | some w, some ws => some (w :: ws)
    | _, _ => none
  | _ => none

/-- A trace line: the word, one digit for the destination, the reported value, and the terminator (10_state.md R23). -/
def traceLine (r : Record) : List Char :=
  hexWord r.instr ++ [hexChar (regField r.dest)] ++ hexWord r.value ++ [Config.lineTerminator]

/-- The output text of a run: its trace lines in arrival order (10_state.md R21, R23). -/
def traceText (rs : List Record) : List Char := rs.flatMap traceLine

/-- What the driver puts on the pins for a run: reset before the first word, then the words in order (70_reset_and_hazards.md R122). -/
def runPins (ws : List Word) : List Pins := Pins.assertReset :: ws.map Pins.present

/-- The driver begins a run with an input text: a malformed line refuses the whole run, "with no claim about the output written
before it" (60_exceptions.md R104, R108; log 10). -/
def State.driveText (s : State) (text : List Char) : Host.Outcome State Fault Refusal :=
  match parseInput text with
  | some ws => .next { s with inputs := runPins ws }
  | none => .refused .malformedInput

end Sys2Proof.Machine
end

