-- ==== Sys2Proof/Machine/Assembly.lean ====
section
/-!
DEFINITION. The assembler and disassembler of 30_encoding.md R50 to R52: written lines to terms, operands to fields, instructions to
their written form, and the six idioms. No behaviour of the core rests on this file (92_eei_decisions.md D11, D16, D20; log 15).
-/

namespace Sys2Proof

/-- `rN` encodes as N (30_encoding.md R51). -/
def regOperand (n : Nat) : Option RegIdx := if h : n < Config.nreg then some ⟨n, h⟩ else none

/-- `imm` in -8 to 7 encodes as its low four bits; outside it is an assembly error (30_encoding.md R51). -/
def decimalOperand (k : Int) : Option Nibble := if -8 ≤ k ∧ k ≤ 7 then some (BitVec.ofInt 4 k) else none

/-- A 16-bit pattern is encodable when some field extends to it (30_encoding.md R51). -/
def patternOperand (p : Nat) : Option Nibble :=
  let f : Nibble := BitVec.ofNat 4 p
  if (sext16 f).toNat = p then some f else none

/-- `shamt` in 0 to 15 encodes as itself (30_encoding.md R51). -/
def shamtOperand (n : Nat) : Option Nibble := if n ≤ 15 then some (BitVec.ofNat 4 n) else none

/-- A constant in a form its mnemonic takes: the pattern form is for the logical immediates (30_encoding.md R51). -/
def immOperand : ImmOp → ImmText → Option Nibble
  | _, .decimal k => decimalOperand k
  | .addi, .pattern _ => none
  | .andi, .pattern p => patternOperand p
  | .ori, .pattern p => patternOperand p
  | .xori, .pattern p => patternOperand p

/-- The register-register instruction of a mnemonic. -/
def RegOp.instr : RegOp → RegIdx → RegIdx → RegIdx → Instr
  | .add => .add
  | .sub => .sub
  | .and => .and
  | .or => .or
  | .xor => .xor
  | .sll => .sll
  | .srl => .srl
  | .sra => .sra

/-- The register-immediate instruction of a mnemonic. -/
def ImmOp.instr : ImmOp → RegIdx → RegIdx → Nibble → Instr
  | .addi => .addi
  | .andi => .andi
  | .ori => .ori
  | .xori => .xori

/-- The immediate shift of a mnemonic. -/
def ShiftOp.instr : ShiftOp → RegIdx → RegIdx → Nibble → Instr
  | .slli => .slli
  | .srli => .srli
  | .srai => .srai

/-- The instruction of a written form, or nothing where an operand is out of range. MOV "encodes `src2_field = 0`" (30_encoding.md R51). -/
def assemble : AsmInstr → Option Instr
  | .mov d s =>
    match regOperand d, regOperand s with
    | some d, some s => some (.mov d s 0x0)
    | _, _ => none
  | .reg op d s t =>
    match regOperand d, regOperand s, regOperand t with
    | some d, some s, some t => some (op.instr d s t)
    | _, _, _ => none
  | .imm op d s k =>
    match regOperand d, regOperand s, immOperand op k with
    | some d, some s, some f => some (op.instr d s f)
    | _, _, _ => none
  | .shift op d s n =>
    match regOperand d, regOperand s, shamtOperand n with
    | some d, some s, some f => some (op.instr d s f)
    | _, _, _ => none

/-! ## Reading a written line (30_encoding.md R50; DESIGN CHOICE for blanks and number spelling, log 15) -/

/-- The pieces of a line between the separators `c`. -/
def piecesBetween (c : Char) : List Char → List (List Char)
  | [] => [[]]
  | x :: xs =>
    match piecesBetween c xs with
    | [] => [[]]
    | p :: ps => if x = c then [] :: p :: ps else (x :: p) :: ps

/-- A piece without the blanks around it. -/
def trimBlanks (l : List Char) : List Char :=
  ((l.dropWhile (· = ' ')).reverse.dropWhile (· = ' ')).reverse

/-- The number a nonempty row of digits spells in a base of at most sixteen. -/
def digitsValue (base : Nat) (l : List Char) : Option Nat :=
  if l = [] then none
  else l.foldl (fun acc c =>
    match acc, Machine.hexDigit? c with
    | some n, some d => if d.toNat < base then some (base * n + d.toNat) else none
    | _, _ => none) (some 0)

/-- `rN`, N in decimal (10_state.md R13, 30_encoding.md R50). -/
def registerText : List Char → Option Nat
  | 'r' :: ds => digitsValue 10 ds
  | _ => none

/-- A constant: a signed decimal, or `0x` and a pattern (30_encoding.md R50, R51). -/
def constantText : List Char → Option ImmText
  | '-' :: ds => (digitsValue 10 ds).map fun n => .decimal (-(n : Int))
  | '0' :: 'x' :: hs => (digitsValue 16 hs).map .pattern
  | ds => (digitsValue 10 ds).map fun n => .decimal n

/-- The register-register mnemonics (30_encoding.md R45). -/
def regOpText : List (List Char × RegOp) :=
  [(['A', 'D', 'D'], .add), (['S', 'U', 'B'], .sub), (['A', 'N', 'D'], .and), (['O', 'R'], .or), (['X', 'O', 'R'], .xor),
   (['S', 'L', 'L'], .sll), (['S', 'R', 'L'], .srl), (['S', 'R', 'A'], .sra)]

/-- The immediate mnemonics (30_encoding.md R45). -/
def immOpText : List (List Char × ImmOp) :=
  [(['A', 'D', 'D', 'I'], .addi), (['A', 'N', 'D', 'I'], .andi), (['O', 'R', 'I'], .ori), (['X', 'O', 'R', 'I'], .xori)]

/-- The immediate-shift mnemonics (30_encoding.md R45). -/
def shiftOpText : List (List Char × ShiftOp) :=
  [(['S', 'L', 'L', 'I'], .slli), (['S', 'R', 'L', 'I'], .srli), (['S', 'R', 'A', 'I'], .srai)]

/-- The written instruction of a mnemonic and its operands (30_encoding.md R50). -/
def asmOfParts (m : List Char) : List (List Char) → Option AsmInstr
  | [d, s] => do
    if m = ['M', 'O', 'V'] then return .mov (← registerText d) (← registerText s) else none
  | [d, s, x] => do
    let rd ← registerText d
    let rs ← registerText s
    match regOpText.lookup m, immOpText.lookup m, shiftOpText.lookup m with
    | some op, _, _ => return .reg op rd rs (← registerText x)
    | _, some op, _ => return .imm op rd rs (← constantText x)
    | _, _, some op => return .shift op rd rs (← digitsValue 10 x)
    | _, _, _ => none
  | _ => none

/-- A line of assembly: mnemonic, blank, operands between commas; `;` starts a comment (30_encoding.md R50). -/
def parseAsm (line : List Char) : Option AsmInstr :=
  let code := trimBlanks (line.takeWhile (· ≠ ';'))
  let m := code.takeWhile (· ≠ ' ')
  asmOfParts m ((piecesBetween ',' (code.dropWhile (· ≠ ' '))).map trimBlanks)

/-! ## Disassembly (30_encoding.md R50, R51; DESIGN CHOICE for the spacing, log 15) -/

/-- `r0` to `r15` (10_state.md R13, 92_eei_decisions.md D11). -/
def regName (r : RegIdx) : String := "r" ++ toString r.val

/-- `MNEMONIC rD, rS1` followed by what is left of the line. -/
def asmLine (i : Instr) (rest : String) : String :=
  i.mnemonic ++ " " ++ regName i.dest ++ ", " ++ regName i.src1 ++ rest

/-- A MOV whose ignored bits are not 0 shows "the raw word in a comment" (30_encoding.md R51). The spec gives the word no notation
there: four hexadecimal digits without `0x`, as on an input line, are the model's (DESIGN CHOICE, log 15). -/
def movComment (i : Instr) (ignored : Nibble) : String :=
  if ignored = 0 then "" else " ; " ++ String.ofList (Machine.hexWord (encode i))

/-- The written form of an instruction (30_encoding.md R50, R51). -/
def disassemble (i : Instr) : String :=
  match i with
  | .mov _ _ f => asmLine i (movComment i f)
  | .add _ _ t | .sub _ _ t | .and _ _ t | .or _ _ t | .xor _ _ t | .sll _ _ t | .srl _ _ t | .sra _ _ t =>
    asmLine i (", " ++ regName t)
  | .addi _ _ f | .andi _ _ f | .ori _ _ f | .xori _ _ f => asmLine i (", " ++ toString f.toInt)
  | .slli _ _ f | .srli _ _ f | .srai _ _ f => asmLine i (", " ++ toString f.toNat)

/-! ## Idioms (30_encoding.md R52) -/

/-- NOP is `MOV r0, r0`. -/
def idiomNop : AsmInstr := .mov 0 0

/-- LI rD, k is `ADDI rD, r0, k`. -/
def idiomLi (d : Nat) (k : Int) : AsmInstr := .imm .addi d 0 (.decimal k)

/-- CLR rD is `MOV rD, r0`. -/
def idiomClr (d : Nat) : AsmInstr := .mov d 0

/-- NOT rD, rS is `XORI rD, rS, -1`. -/
def idiomNot (d s : Nat) : AsmInstr := .imm .xori d s (.decimal (-1))

/-- NEG rD, rS is `SUB rD, r0, rS`. -/
def idiomNeg (d s : Nat) : AsmInstr := .reg .sub d 0 s

/-- SUBI rD, rS, k is `ADDI rD, rS, -k`, for k in -7 to 8. -/
def idiomSubi (d s : Nat) (k : Int) : AsmInstr := .imm .addi d s (.decimal (-k))

end Sys2Proof
end

