-- ==== Sys2Proof/Machine/Datapath.lean ====
section
/-!
DEFINITION. The block as 40_step_and_writeback.md R69 draws it: decoder, register file with two read ports and one write port,
operand-B multiplexer, ALU with result multiplexer, write-back control. It is a second description of the same function (the
drawing is descriptive, D13); the machine's step does not call it, and a statement says the two agree.
-/

namespace Sys2Proof.Machine

/-- The operand-B multiplexer: the second read port or the sign extender, by `b_is_imm` (40_step_and_writeback.md R62). -/
def bMux (bIsImm : Bool) (portB imm : Word) : Word := if bIsImm then imm else portB

/-- `dest_value`: what the ALU gives for the two selected operands (40_step_and_writeback.md R61 to R64). -/
def RegFile.destValue (x : RegFile) (o : DecoderOutputs) : Word :=
  alu o.aluOp (x.read o.src1Reg) (bMux o.bIsImm (x.read o.src2Reg) o.src2Imm)

/-- The write port, gated by `wr_en` (40_step_and_writeback.md R65). -/
def RegFile.writePort (x : RegFile) (o : DecoderOutputs) (v : Word) : RegFile :=
  if o.wrEn then x.write o.destReg v else x

/-- The block as a function from (register file, word) to (next register file, record) (00_scope.md R2; 40_step_and_writeback.md
R60, R69). -/
def execute (x : RegFile) (w : Word) : RegFile × Record :=
  let o := decoderOutputs w
  let v := x.destValue o
  (x.writePort o v, ⟨w, o.destReg, if o.wrEn then v else 0x0000⟩)

end Sys2Proof.Machine
end

