-- ==== Sys2Proof/Machine/Driver.lean ====
section
/-!
DEFINITION. The driver's whole pass over an input text: it resets the core, presents the words in order, one for each step, and writes
one trace line for each record (70_reset_and_hazards.md R122, R123; 10_state.md R21, R23). Comparing two trace texts is here too (R24).
-/

namespace Sys2Proof.Machine

/-- The output text of a run over an input text, from any state before it; a refused text has none (60_exceptions.md R104). -/
def State.driverOutput (s : State) (text : List Char) : Host.Outcome (List Char) Fault Refusal :=
  match s.driveText text with
  | .next t =>
    match Sys2Proof.core.run t.inputs.length t with
    | .next u => .next (traceText u.trace)
    | .fault r => .fault r
    | .refused r => .refused r
  | .fault r => .fault r
  | .refused r => .refused r

/-- A text with letters in lower case and every line ending (line feed, carriage return, or both) as the model's own. -/
def normalizeText : List Char → List Char
  | [] => []
  | '\r' :: '\n' :: rest => Config.lineTerminator :: normalizeText rest
  | '\r' :: rest => Config.lineTerminator :: normalizeText rest
  | c :: rest => c.toLower :: normalizeText rest

/-- "A comparison of two traces should ignore letter case and the kind of line terminator" (10_state.md R24). -/
def sameTrace (a b : List Char) : Bool := normalizeText a == normalizeText b

end Sys2Proof.Machine
end

