-- ==== Sys2Proof/Safety.lean ====
section
/-!
DEFINITION. The terms the claims use: what it is for an instruction to complete with a given value and nothing else, which states
are consistent with their own trace, and runs over a list of pin samples.
-/

namespace Sys2Proof.Machine

/-- The record an instruction with destination `d` and result `v` must emit (10_state.md R20, 40_step_and_writeback.md R66). -/
def recordOf (i : Instr) (d : RegIdx) (v : Word) : Record := ⟨encode i, d, if d = 0 then 0x0000 else v⟩

/-- The instruction runs in `s`, to a next state in which register `d` holds `v` unless `d` is r0, every other register is as
before, its one record is on the pins and after the earlier ones in the trace, and the driver's words are as before: its whole
effect and its frame (40_step_and_writeback.md R65, R66; 10_state.md R15). -/
def WritesBack (i : Instr) (d : RegIdx) (v : Word) (s : State) : Prop :=
  ∃ t, exec i s = .next t ∧
    (∀ r, t.readReg r = if r = d ∧ d ≠ 0 then v else s.readReg r) ∧
    t.record = some (recordOf i d v) ∧
    t.trace = s.trace ++ [recordOf i d v] ∧
    t.inputs = s.inputs

/-- What the records of a run say register `i` holds: the value of the latest record whose destination is `i`, or the reset value
where there is none (10_state.md R14). -/
def latestValue (i : RegIdx) : List Record → Word
  | [] => 0x0000
  | r :: rs => if rs.any (fun q => q.dest = i) then latestValue i rs else if r.dest = i then r.value else 0x0000

/-- A record as 10_state.md R20 describes it: the destination is bits [11:8] of the word, and the value is 0 for r0. -/
def Record.Consistent (r : Record) : Prop := r.dest = destField r.instr ∧ (r.dest = 0 → r.value = 0x0000)

/-- The invariant of a run: every register holds what the trace says was last written to it (10_state.md R14), every record is
consistent (R20), and a record on the pins is the last of the trace (R21). -/
structure State.TraceConsistent (s : State) : Prop where
  regs_follow_trace : ∀ i, s.readReg i = latestValue i s.trace
  records_consistent : ∀ r ∈ s.trace, r.Consistent
  pins_show_last : ∀ r, s.record = some r → s.trace.getLast? = some r

/-- A run over a list of pin samples: the samples stand before the driver, and the machine takes one step for each. -/
def runSamples (s : State) (ps : List Pins) : Host.Outcome State Fault Refusal :=
  Sys2Proof.core.run ps.length { s with inputs := ps }

end Sys2Proof.Machine
end

