-- ==== Sys2Proof/Certificates/Slice0/Obligations.lean ====
section
/-!
DEFINITION. The statements for the provers. An instruction's result is stated in the spec's own arithmetic (`trunc16`, `signed`,
`unsigned`, single bits), not in the model's ALU functions, and through `WritesBack`, which says the whole effect and the frame.
-/

open Sys2Proof Sys2Proof.Machine

/-! ## State, reset and the zero register -/

/-- 10_state.md R25: every register holds 0x0000 at the start of a run. -/
def Obligations.ResetRegistersReadZero : Prop :=
  ∀ i, State.reset.readReg i = 0x0000

/-- 10_state.md R11: index 0 reads 0, and a write to it changes nothing. -/
def Obligations.ZeroRegisterIsHardWired : Prop :=
  (∀ s : State, s.readReg 0 = 0x0000) ∧ (∀ (s : State) (v : Word), s.writeReg 0 v = s)

/-- 70_reset_and_hazards.md R120. That `rst` goes before `instr_valid` is DEDUCED (log 3); that the trace starts anew and the later
samples stay is the model's choice (log 5, log 1). -/
def Obligations.AssertedResetStartsNewRun : Prop :=
  ∀ (s : State) (p : Pins) (ps : List Pins), s.inputs = p :: ps → p.rst = true →
    ∃ t, step s = .next t ∧ (∀ i, t.readReg i = 0x0000) ∧ t.record = none ∧ t.trace = [] ∧ t.inputs = ps

/-- 70_reset_and_hazards.md R128 and R123: with no instruction presented, or no sample left (log 2), the state holds and no record
is produced. -/
def Obligations.CoreHoldsWhenNothingIsPresented : Prop :=
  (∀ (s : State) (p : Pins) (ps : List Pins), s.inputs = p :: ps → p.rst = false → p.instrValid = false →
    step s = .next { s with inputs := ps, record := none }) ∧
  (∀ s : State, s.inputs = [] → step s = .next { s with record := none })

/-! ## Results of the sixteen instructions

Each says which words are the instruction (30_encoding.md R45: its opcode in bits [15:12], every operand at every value), and that it
runs in every state, with which value. -/

/-- 41_mov.md R70. -/
def Obligations.MovCopiesSource : Prop :=
  ∀ d r ignored s, decode (packWord 0x0 d r ignored) = .mov d r ignored ∧
    WritesBack (.mov d r ignored) d (s.readReg r) s

/-- 42_arith_reg.md R73. -/
def Obligations.AddWrapsSum : Prop :=
  ∀ d r t s, decode (packWord 0x1 d r (regField t)) = .add d r t ∧
    WritesBack (.add d r t) d (trunc16 ((unsigned (s.readReg r) : Int) + unsigned (s.readReg t))) s

/-- 42_arith_reg.md R74. -/
def Obligations.SubWrapsDifference : Prop :=
  ∀ d r t s, decode (packWord 0x2 d r (regField t)) = .sub d r t ∧
    WritesBack (.sub d r t) d (trunc16 ((unsigned (s.readReg r) : Int) - unsigned (s.readReg t))) s

/-- 43_logic_reg.md R75: bit by bit. -/
def Obligations.AndIsBitwise : Prop :=
  ∀ d r t s, decode (packWord 0x3 d r (regField t)) = .and d r t ∧
    ∃ v, WritesBack (.and d r t) d v s ∧
      ∀ j, j < 16 → (v.getLsbD j = true ↔ (s.readReg r).getLsbD j = true ∧ (s.readReg t).getLsbD j = true)

/-- 43_logic_reg.md R76: bit by bit. -/
def Obligations.OrIsBitwise : Prop :=
  ∀ d r t s, decode (packWord 0x4 d r (regField t)) = .or d r t ∧
    ∃ v, WritesBack (.or d r t) d v s ∧
      ∀ j, j < 16 → (v.getLsbD j = true ↔ (s.readReg r).getLsbD j = true ∨ (s.readReg t).getLsbD j = true)

/-- 43_logic_reg.md R77: bit by bit. -/
def Obligations.XorIsBitwise : Prop :=
  ∀ d r t s, decode (packWord 0x5 d r (regField t)) = .xor d r t ∧
    ∃ v, WritesBack (.xor d r t) d v s ∧
      ∀ j, j < 16 → (v.getLsbD j = true ↔ (s.readReg r).getLsbD j ≠ (s.readReg t).getLsbD j)

/-- 44_shift_reg.md R80. -/
def Obligations.SllMultipliesByPowerOfTwo : Prop :=
  ∀ d r t s, decode (packWord 0x6 d r (regField t)) = .sll d r t ∧
    WritesBack (.sll d r t) d
      (trunc16 ((unsigned (s.readReg r) : Int) * 2 ^ unsigned (s.readReg t &&& 0x000F))) s

/-- 44_shift_reg.md R81. -/
def Obligations.SrlDividesUnsigned : Prop :=
  ∀ d r t s, decode (packWord 0x7 d r (regField t)) = .srl d r t ∧
    WritesBack (.srl d r t) d
      (trunc16 ((unsigned (s.readReg r) / 2 ^ unsigned (s.readReg t &&& 0x000F) : Nat) : Int)) s

/-- 44_shift_reg.md R82: the division is rounded toward minus infinity. -/
def Obligations.SraDividesSignedFloor : Prop :=
  ∀ d r t s, decode (packWord 0x8 d r (regField t)) = .sra d r t ∧
    WritesBack (.sra d r t) d
      (trunc16 (Int.fdiv (signed (s.readReg r)) (2 ^ unsigned (s.readReg t &&& 0x000F)))) s

/-- 45_arith_logic_imm.md R85. The immediate is given by its signed value, -8 to 7. -/
def Obligations.AddiWrapsSumWithImmediate : Prop :=
  ∀ d r (f : Nibble) s, decode (packWord 0x9 d r f) = .addi d r f ∧
    WritesBack (.addi d r f) d (trunc16 ((unsigned (s.readReg r) : Int) + f.toInt)) s

/-- 45_arith_logic_imm.md R86, R84: bits 3 to 15 of the operand are bit 3 of the field. -/
def Obligations.AndiUsesSignExtendedImmediate : Prop :=
  ∀ d r (f : Nibble) s, decode (packWord 0xA d r f) = .andi d r f ∧
    ∃ v, WritesBack (.andi d r f) d v s ∧
      ∀ j, j < 16 → (v.getLsbD j = true ↔ (s.readReg r).getLsbD j = true ∧ f.getLsbD (min j 3) = true)

/-- 45_arith_logic_imm.md R87, R84. -/
def Obligations.OriUsesSignExtendedImmediate : Prop :=
  ∀ d r (f : Nibble) s, decode (packWord 0xB d r f) = .ori d r f ∧
    ∃ v, WritesBack (.ori d r f) d v s ∧
      ∀ j, j < 16 → (v.getLsbD j = true ↔ (s.readReg r).getLsbD j = true ∨ f.getLsbD (min j 3) = true)

/-- 45_arith_logic_imm.md R88, R84. -/
def Obligations.XoriUsesSignExtendedImmediate : Prop :=
  ∀ d r (f : Nibble) s, decode (packWord 0xC d r f) = .xori d r f ∧
    ∃ v, WritesBack (.xori d r f) d v s ∧
      ∀ j, j < 16 → (v.getLsbD j = true ↔ (s.readReg r).getLsbD j ≠ f.getLsbD (min j 3))

/-- 46_shift_imm.md R91: the amount is the field, 0 to 15. -/
def Obligations.SlliMultipliesByPowerOfTwo : Prop :=
  ∀ d r (f : Nibble) s, decode (packWord 0xD d r f) = .slli d r f ∧
    WritesBack (.slli d r f) d (trunc16 ((unsigned (s.readReg r) : Int) * 2 ^ f.toNat)) s

/-- 46_shift_imm.md R92. -/
def Obligations.SrliDividesUnsigned : Prop :=
  ∀ d r (f : Nibble) s, decode (packWord 0xE d r f) = .srli d r f ∧
    WritesBack (.srli d r f) d (trunc16 ((unsigned (s.readReg r) / 2 ^ f.toNat : Nat) : Int)) s

/-- 46_shift_imm.md R93. -/
def Obligations.SraiDividesSignedFloor : Prop :=
  ∀ d r (f : Nibble) s, decode (packWord 0xF d r f) = .srai d r f ∧
    WritesBack (.srai d r f) d (trunc16 (Int.fdiv (signed (s.readReg r)) (2 ^ f.toNat))) s

/-! ## Laws of the ALU and of the immediate -/

/-- 42_arith_reg.md R72: addition and subtraction modulo 65536. The last three clauses rest on what R72 marks as its own inference:
"[derived: the identity and the equivalence of the signed and unsigned readings follow from arithmetic modulo 2^16]". -/
def Obligations.AdditionIsModulo65536 : Prop :=
  ∀ a b : Word,
    unsigned (add16 a b) = (unsigned a + unsigned b) % 65536 ∧
    (unsigned (sub16 a b) : Int) = ((unsigned a : Int) - unsigned b) % 65536 ∧
    add16 a b = trunc16 (signed a + signed b) ∧
    sub16 a b = trunc16 (signed a - signed b) ∧
    sub16 a b = add16 a (add16 (~~~b) 0x0001)

/-- 44_shift_reg.md R78: the three bit formulas, and the arithmetic readings they equal. -/
def Obligations.ShiftsMoveBitsAndScale : Prop :=
  ∀ (a : Word) (n : Nat), n ≤ 15 →
    (∀ j, j < 16 →
      (sll16 a n).getLsbD j = (if j ≥ n then a.getLsbD (j - n) else false) ∧
      (srl16 a n).getLsbD j = (if j + n ≤ 15 then a.getLsbD (j + n) else false) ∧
      (sra16 a n).getLsbD j = (if j + n ≤ 15 then a.getLsbD (j + n) else a.getLsbD 15)) ∧
    sll16 a n = trunc16 ((unsigned a : Int) * 2 ^ n) ∧
    unsigned (srl16 a n) = unsigned a / 2 ^ n ∧
    sra16 a n = trunc16 (Int.fdiv (signed a) (2 ^ n))

/-- 30_encoding.md R43: the sign extension from 4 to 16 bits. -/
def Obligations.ImmediateIsSignExtended : Prop :=
  ∀ v : Nibble,
    sext16 v = (if v.toNat < 8 then v.setWidth 16 else v.setWidth 16 ||| 0xFFF0) ∧
    signed (sext16 v) = (if v.toNat < 8 then (v.toNat : Int) else (v.toNat : Int) - 16)

/-- 44_shift_reg.md R79, 46_shift_imm.md R90: a shift by a register whose low four bits are `f` is the shift by the field `f`,
whatever the register's other bits. -/
def Obligations.ShiftAmountIsLowFourBits : Prop :=
  ∀ d r t (f : Nibble) (s : State), (s.readReg t).extractLsb' 0 4 = f →
    (∃ v, WritesBack (.sll d r t) d v s ∧ WritesBack (.slli d r f) d v s) ∧
    (∃ v, WritesBack (.srl d r t) d v s ∧ WritesBack (.srli d r f) d v s) ∧
    (∃ v, WritesBack (.sra d r t) d v s ∧ WritesBack (.srai d r f) d v s)

/-- 44_shift_reg.md R81, R82, corner cases: the two right shifts agree for a value with bit 15 clear or an amount of 0, and differ
for every other value and amount. -/
def Obligations.RightShiftsDifferOnlyOnNegatives : Prop :=
  ∀ d r t (s : State), ∃ v u, WritesBack (.srl d r t) d v s ∧ WritesBack (.sra d r t) d u s ∧
    (v = u ↔ (s.readReg r).getLsbD 15 = false ∨ s.readReg t &&& 0x000F = 0)

/-! ## Encoding -/

/-- 30_encoding.md R45: for every word exactly one row of the opcode table matches, and the decoder gives its instruction. -/
def Obligations.OpcodeTableSelectsEveryWord : Prop :=
  ∀ w : Word, ∃ row ∈ opcodeTable, row.matchesWord w = true ∧ (decode w).mnemonic = row.mnemonic ∧
    ∀ q ∈ opcodeTable, q.matchesWord w = true → q = row

/-- Every instruction, with every operand at every value, survives encoding and decoding. -/
def Obligations.DecodeOfEncodeIsIdentity : Prop :=
  ∀ i : Instr, decode (encode i) = i

/-- Every word is the encoding of what it decodes to: no bit of a word is dropped, MOV's ignored bits included. -/
def Obligations.EncodeOfDecodeIsIdentity : Prop :=
  ∀ w : Word, encode (decode w) = w

/-- Words of the decode vectors, 95_test_vectors.md section 2.7, one of each opcode. -/
def Obligations.DecodeVectors : Prop :=
  decode 0x0ABC = .mov 10 11 0xC ∧ decode 0x1234 = .add 2 3 4 ∧ decode 0x2FED = .sub 15 14 13 ∧
  decode 0x3333 = .and 3 3 3 ∧ decode 0x4321 = .or 3 2 1 ∧ decode 0x5A5A = .xor 10 5 10 ∧
  decode 0x6420 = .sll 4 2 0 ∧ decode 0x7777 = .srl 7 7 7 ∧ decode 0x8018 = .sra 0 1 8 ∧
  decode 0x9F01 = .addi 15 0 1 ∧ decode 0xA5A8 = .andi 5 10 8 ∧ decode 0xB007 = .ori 0 0 7 ∧
  decode 0xCFFF = .xori 15 15 15 ∧ decode 0xD12F = .slli 1 2 15 ∧ decode 0xE3C8 = .srli 3 12 8 ∧
  decode 0xFFFF = .srai 15 15 15

/-- 30_encoding.md R47: two MOV words that differ only in bits [3:0] do the same, each showing its own bits in its record. -/
def Obligations.MovIgnoresLowFourBits : Prop :=
  ∀ (w w' : Word) (s : State), opcodeField w = 0x0 → w >>> 4 = w' >>> 4 →
    ∃ t t' v, exec (decode w) s = .next t ∧ exec (decode w') s = .next t' ∧ t.regs = t'.regs ∧
      t.record = some ⟨w, destField w, v⟩ ∧ t'.record = some ⟨w', destField w, v⟩

/-- 30_encoding.md R42, R53: the row of the table that matches a word fixes the operand class, and the decoder's control outputs and
the registers the instruction names follow it. -/
def Obligations.DecoderOutputsFollowOperandClass : Prop :=
  ∀ (w : Word) (row : OpcodeRow), row ∈ opcodeTable → row.matchesWord w = true →
    ((decoderOutputs w).bIsImm = true ↔ row.cls = .registerImmediate) ∧
    ((decode w).src2 = if row.cls = .registerRegister then some (decoderOutputs w).src2Reg else none) ∧
    ((decoderOutputs w).aluOp = .mova ↔ row.cls = .move) ∧
    ((decoderOutputs w).wrEn = true ↔ (decode w).dest ≠ 0) ∧
    (decoderOutputs w).src1Reg = (decode w).src1 ∧ (decoderOutputs w).destReg = (decode w).dest

/-! ## The step, write-back and the record -/

/-- 10_state.md R19, 40_step_and_writeback.md R60: a presented word is decoded and executed; the step adds only that its sample is
taken and the earlier record leaves the pins. -/
def Obligations.StepExecutesPresentedWord : Prop :=
  ∀ (s : State) (w : Word) (ps : List Pins), s.inputs = ⟨false, true, w⟩ :: ps →
    step s = exec (decode w) { s with inputs := ps, record := none }

/-- 10_state.md R19: `rec_valid` equals `instr_valid`, but while `rst` is asserted no record is produced (70_reset_and_hazards.md
R120; the precedence is DEDUCED, log 3). -/
def Obligations.RecValidFollowsInstrValid : Prop :=
  ∀ (s : State) (p : Pins) (ps : List Pins), s.inputs = p :: ps →
    ∃ t, step s = .next t ∧ t.record.isSome = (p.instrValid && !p.rst)

/-- 40_step_and_writeback.md R65: every instruction writes its destination and nothing else, or nothing when that is r0. -/
def Obligations.EveryInstructionWritesBack : Prop :=
  ∀ (i : Instr) (s : State), ∃ v, WritesBack i i.dest v s

/-- 30_encoding.md R48: a word with `dest_reg = 0` changes no register and reports 0, still producing its record. -/
def Obligations.DestinationZeroChangesNothing : Prop :=
  ∀ (w : Word) (s : State), destField w = 0 →
    ∃ t, exec (decode w) s = .next t ∧ t.regs = s.regs ∧ t.record = some ⟨w, 0, 0x0000⟩ ∧
      t.trace = s.trace ++ [⟨w, 0, 0x0000⟩] ∧ t.inputs = s.inputs

/-- 10_state.md R20: the record's three components; the reported value is what the destination then reads, which is 0 for r0. -/
def Obligations.RecordShowsWordDestinationAndValue : Prop :=
  ∀ (w : Word) (s : State), ∃ t r, exec (decode w) s = .next t ∧ t.record = some r ∧
    r.instr = w ∧ r.dest = destField w ∧ r.value = t.readReg (destField w)

/-- 60_exceptions.md R105, R103: no instruction raises anything, and no step faults or is refused, so `unknownOpcode` is unreachable. -/
def Obligations.StepAlwaysAnswersNextState : Prop :=
  (∀ (i : Instr) (s : State), ∃ t, exec i s = .next t) ∧ (∀ s : State, ∃ t, step s = .next t)

/-- 40_step_and_writeback.md R94, 10_state.md R16: the driver's next word is always the next one, whatever was executed. It covers a
sample with `rst` 1 too (70_reset_and_hazards.md R120): that a reset keeps the samples that come after it is the model's choice (log 1). -/
def Obligations.NextWordIsAlwaysTheNextInOrder : Prop :=
  ∀ (s : State) (p : Pins) (ps : List Pins), s.inputs = p :: ps → ∃ t, step s = .next t ∧ t.inputs = ps

/-- 20_memory.md R36, 40_step_and_writeback.md R61, R62: the record depends on the named source registers only; MOV and the immediate
class name one. -/
def Obligations.RecordDependsOnNamedRegistersOnly : Prop :=
  ∀ (i : Instr) (s s' : State), s.readReg i.src1 = s'.readReg i.src1 →
    (∀ t, i.src2 = some t → s.readReg t = s'.readReg t) →
    ∃ u u', exec i s = .next u ∧ exec i s' = .next u' ∧ u.record = u'.record ∧ u.record.isSome = true

/-- 70_reset_and_hazards.md R124: the next instruction sees the value just written, through either source field. -/
def Obligations.NextInstructionSeesWrittenValue : Prop :=
  ∀ (i : Instr) (d : RegIdx) (s : State), d ≠ 0 →
    ∃ t r, exec i s = .next t ∧ t.record = some r ∧
      WritesBack (.or d i.dest 0) d r.value t ∧ WritesBack (.or d 0 i.dest) d r.value t

/-- 41_mov.md R70, the source's testable property. -/
def Obligations.MovTwiceGivesSameValue : Prop :=
  ∀ d r ignored (s : State), d ≠ r →
    ∃ t u, exec (.mov d r ignored) s = .next t ∧ exec (.mov d r ignored) t = .next u ∧
      u.readReg d = t.readReg d ∧ u.record = t.record

/-- 10_state.md R17: a program computes the sign of a (wrapped) difference with SUB then SRAI by 15. -/
def Obligations.SubThenSraiGivesSignOfDifference : Prop :=
  ∀ d r t (s : State), d ≠ 0 →
    ∃ u, exec (.sub d r t) s = .next u ∧
      WritesBack (.srai d d 0xF) d (differenceSign (s.readReg r) (s.readReg t)) u ∧
      differenceSign (s.readReg r) (s.readReg t) =
        if signed (trunc16 (signed (s.readReg r) - signed (s.readReg t))) < 0 then 0xFFFF else 0x0000

/-- 40_step_and_writeback.md R60, R69; 00_scope.md R2: the drawn block, as a function of (register file, word), is the step. -/
def Obligations.BlockDiagramComputesTheStep : Prop :=
  ∀ (s : State) (w : Word) (ps : List Pins), s.inputs = Pins.present w :: ps →
    step s = .next
      { regs := (execute s.regs w).1
        inputs := ps
        record := some (execute s.regs w).2
        trace := s.trace ++ [(execute s.regs w).2] }

/-! ## Runs -/

/-- 10_state.md R14, R20, R21: registers follow the trace, at reset. -/
def Obligations.ResetIsTraceConsistent : Prop :=
  State.reset.TraceConsistent

/-- 10_state.md R14, R20, R21: a register holds the value of the latest record that names it, or the reset value, and every step
keeps it so, reset included (the trace of a run ends with it: log 5). -/
def Obligations.EveryStepKeepsTraceConsistent : Prop :=
  ∀ s t : State, s.TraceConsistent → step s = .next t → t.TraceConsistent

/-- 70_reset_and_hazards.md R128: an idle step holds the registers and produces no record, and a run with idle steps has the same
records and the same final registers as the run without them. A sample with `rst` 1 among them keeps the later ones (log 1) and empties
the trace (log 5) in both runs: the model's choices. -/
def Obligations.IdleStepsAreInvisible : Prop :=
  (∀ (s : State) (p : Pins) (ps : List Pins), s.inputs = p :: ps → p.event = .idle →
    ∃ t, step s = .next t ∧ t.regs = s.regs ∧ t.record = none ∧ t.trace = s.trace) ∧
  (∀ (s : State) (ps : List Pins),
    ∃ t u, runSamples s ps = .next t ∧ runSamples s (ps.filter fun p => p.event ≠ .idle) = .next u ∧
      t.regs = u.regs ∧ t.trace = u.trace)

/-- 10_state.md R21: a run of words yields one record a word, in arrival order, and changes no earlier record. -/
def Obligations.RunYieldsOneRecordPerWordInOrder : Prop :=
  ∀ (s : State) (ws : List Word), ∃ t rs, runSamples s (ws.map Pins.present) = .next t ∧
    t.trace = s.trace ++ rs ∧ rs.map (fun r => r.instr) = ws

/-- 20_memory.md R37, 70_reset_and_hazards.md R125: a run is the sequential composition of its parts. It covers samples with `rst` 1 too:
that a reset keeps the samples that come after it is the model's choice (log 1). -/
def Obligations.RunIsSequentialComposition : Prop :=
  ∀ (s t : State) (ps qs : List Pins), runSamples s ps = .next t → runSamples s (ps ++ qs) = runSamples t qs

/-- 70_reset_and_hazards.md R120: whatever ran before an asserted reset, what follows is the run from the reset state. That `rst`
goes before `instr_valid` is DEDUCED (log 3); that the trace is emptied and the later samples stay is the model's choice (log 5, log 1). -/
def Obligations.ResetForgetsTheEarlierRun : Prop :=
  ∀ (s : State) (ps qs : List Pins) (p : Pins), p.rst = true →
    runSamples s (ps ++ p :: qs) = runSamples State.reset qs

/-! ## Text forms -/

/-- 10_state.md R22: a line is accepted exactly when it is four hexadecimal digits and the terminator, the first digit bits [15:12]. -/
def Obligations.InputLineIsFourDigitsMostSignificantFirst : Prop :=
  ∀ (l : List Char) (w : Word), parseLine l = some w ↔
    ∃ a b c d, l = [a, b, c, d, Config.lineTerminator] ∧
      hexDigit? a = some (w.extractLsb' 12 4) ∧ hexDigit? b = some (w.extractLsb' 8 4) ∧
      hexDigit? c = some (w.extractLsb' 4 4) ∧ hexDigit? d = some (w.extractLsb' 0 4)

/-- 10_state.md R22: the input text of a program reads back as the program. -/
def Obligations.InputTextReadsBack : Prop :=
  ∀ ws : List Word, parseInput (ws.flatMap inputLine) = some ws

/-- 10_state.md R23, R24: a trace line is nine lower-case digits and the terminator: the word, the destination, the value. -/
def Obligations.TraceLineIsNineDigits : Prop :=
  ∀ r : Record, ∃ a b c d e f g h i,
    traceLine r = [a, b, c, d, e, f, g, h, i, Config.lineTerminator] ∧
    [a, b, c, d, e, f, g, h, i] ⊆ ['0', '1', '2', '3', '4', '5', '6', '7', '8', '9', 'a', 'b', 'c', 'd', 'e', 'f'] ∧
    hexDigit? a = some (r.instr.extractLsb' 12 4) ∧ hexDigit? b = some (r.instr.extractLsb' 8 4) ∧
    hexDigit? c = some (r.instr.extractLsb' 4 4) ∧ hexDigit? d = some (r.instr.extractLsb' 0 4) ∧
    hexDigit? e = some (BitVec.ofNat 4 r.dest.val) ∧
    hexDigit? f = some (r.value.extractLsb' 12 4) ∧ hexDigit? g = some (r.value.extractLsb' 8 4) ∧
    hexDigit? h = some (r.value.extractLsb' 4 4) ∧ hexDigit? i = some (r.value.extractLsb' 0 4)

/-- 60_exceptions.md R104, R108: a text is refused exactly when it is not a sequence of well-formed lines; otherwise the driver
resets and presents its words in order. -/
def Obligations.MalformedLineRefusesTheRun : Prop :=
  ∀ (s : State) (text : List Char),
    (∃ (ls : List (List Char)) (ws : List Word), text = ls.flatten ∧ ls.map parseLine = ws.map some ∧
      s.driveText text = .next { s with inputs := Pins.assertReset :: ws.map Pins.present }) ∨
    (s.driveText text = .refused .malformedInput ∧
      ¬ ∃ (ls : List (List Char)) (ws : List Word), text = ls.flatten ∧ ls.map parseLine = ws.map some)

/-- 70_reset_and_hazards.md R123, 10_state.md R21, R23: the driver's pass over a well-formed text, whatever the core held before, writes
one trace line for each word of the text, in order. The text conventions (log 9), that a reset keeps the samples after it (log 1) and
that it empties the trace (log 5) are the model's choices. -/
def Obligations.DriverWritesOneTraceLinePerWord : Prop :=
  ∀ (s : State) (text : List Char) (ws : List Word), parseInput text = some ws →
    ∃ rs : List Record, s.driverOutput text = .next (rs.flatMap traceLine) ∧ rs.map (fun r => r.instr) = ws

/-! ## Assembly -/

/-- 30_encoding.md R50, R51: the assembler accepts exactly the written forms whose operands are in range. -/
def Obligations.AssemblerAcceptsOperandsInRange : Prop :=
  ∀ a : AsmInstr, (assemble a).isSome = a.wellFormed

/-- 30_encoding.md R51: an assembled operand is the one written: register numbers, the signed immediate, the 16-bit pattern, the
shift amount, and MOV's zero. -/
def Obligations.AssembledOperandsAreTheWrittenOnes : Prop :=
  (∀ d s i, assemble (.mov d s) = some i → i.dest.val = d ∧ i.src1.val = s ∧ src2Field (encode i) = 0x0) ∧
  (∀ op d s t i, assemble (.reg op d s t) = some i →
    i.dest.val = d ∧ i.src1.val = s ∧ i.src2.map (fun r => r.val) = some t) ∧
  (∀ op d s k i, assemble (.imm op d s (.decimal k)) = some i →
    i.dest.val = d ∧ i.src1.val = s ∧ signed (sext16 (src2Field (encode i))) = k) ∧
  (∀ op d s p i, assemble (.imm op d s (.pattern p)) = some i →
    i.dest.val = d ∧ i.src1.val = s ∧ unsigned (sext16 (src2Field (encode i))) = p) ∧
  (∀ op d s n i, assemble (.shift op d s n) = some i →
    i.dest.val = d ∧ i.src1.val = s ∧ (src2Field (encode i)).toNat = n)

/-- 30_encoding.md R52: what the six idioms do. -/
def Obligations.IdiomsHaveTheirEffects : Prop :=
  (∀ s, ∃ i, assemble idiomNop = some i ∧ WritesBack i 0 0x0000 s) ∧
  (∀ (d : RegIdx) (k : Int) (s : State), -8 ≤ k → k ≤ 7 →
    ∃ i, assemble (idiomLi d k) = some i ∧ WritesBack i d (trunc16 k) s) ∧
  (∀ (d : RegIdx) (s : State), ∃ i, assemble (idiomClr d) = some i ∧ WritesBack i d 0x0000 s) ∧
  (∀ (d r : RegIdx) (s : State), ∃ i, assemble (idiomNot d r) = some i ∧ WritesBack i d (~~~(s.readReg r)) s) ∧
  (∀ (d r : RegIdx) (s : State),
    ∃ i, assemble (idiomNeg d r) = some i ∧ WritesBack i d (trunc16 (0 - (unsigned (s.readReg r) : Int))) s) ∧
  (∀ (d r : RegIdx) (k : Int) (s : State), -7 ≤ k → k ≤ 8 →
    ∃ i, assemble (idiomSubi d r k) = some i ∧ WritesBack i d (trunc16 ((unsigned (s.readReg r) : Int) - k)) s)
end

