-- ==== Sys2Proof/Laws/Alu.lean ====
section
/-! SUPPORT. What the ALU functions and the operand forms give, bit by bit or as numbers. -/

namespace Sys2Proof.Machine

/-- The masked amount is the low four bits as a number. -/
theorem shiftAmount_eq_mod (b : Word) : shiftAmount b = b.toNat % 16 := by
  unfold shiftAmount
  rw [BitVec.toNat_and]
  exact Nat.and_two_pow_sub_one_eq_mod b.toNat 4

theorem shiftAmount_lt (b : Word) : shiftAmount b < 16 := by
  rw [shiftAmount_eq_mod]; omega

/-- The amount of an immediate shift is its field: the sign extension is masked away. -/
theorem shamtImm_eq_field (f : Nibble) : shamtImm f = f.toNat := by
  revert f; decide

/-- `sext16` is the sign extension of the field. -/
theorem sext16_eq_signExtend (f : Nibble) : sext16 f = f.signExtend 16 := by
  revert f; decide

/-- The spec's signed reading is BitVec's. -/
theorem signed_eq_toInt (a : Word) : signed a = a.toInt := by
  rw [signed, BitVec.toInt_eq_msb_cond, BitVec.msb_eq_getLsbD_last]
  simp

theorem add16_toNat (a b : Word) : (add16 a b).toNat = (a.toNat + b.toNat) % 65536 := BitVec.toNat_add a b

theorem sub16_eq_add_neg (a b : Word) : sub16 a b = a + -b := BitVec.sub_eq_add_neg a b

theorem sll16_getLsbD (a : Word) (n j : Nat) (hj : j < 16) :
    (sll16 a n).getLsbD j = if n ≤ j then a.getLsbD (j - n) else false := by
  unfold sll16
  rw [BitVec.getLsbD_shiftLeft]
  by_cases h : n ≤ j <;> simp [h, hj, Nat.not_lt.mpr]

theorem srl16_getLsbD (a : Word) (n j : Nat) :
    (srl16 a n).getLsbD j = if j + n ≤ 15 then a.getLsbD (j + n) else false := by
  unfold srl16
  rw [BitVec.getLsbD_ushiftRight, Nat.add_comm n j]
  split
  · rfl
  · exact BitVec.getLsbD_of_ge a _ (by omega)

theorem sra16_getLsbD (a : Word) (n j : Nat) (hj : j < 16) :
    (sra16 a n).getLsbD j = if j + n ≤ 15 then a.getLsbD (j + n) else a.getLsbD 15 := by
  unfold sra16
  rw [BitVec.getLsbD_sshiftRight, Nat.add_comm n j]
  by_cases h : j + n ≤ 15
  · simp [h, hj, Nat.lt_succ_of_le h]
  · have h' : ¬ j + n < 16 := by omega
    simp [h, h', hj, BitVec.msb_eq_getLsbD_last]

end Sys2Proof.Machine
end

