-- ==== Sys2Proof/Laws/Decode.lean ====
section
/-! SUPPORT. A word and its four fields: packing and extracting are inverse. The provers take a word apart by
`exists_packWord` and read its fields by the simp lemmas, without unfolding `packWord`. -/

namespace Sys2Proof

@[simp] theorem regField_toFin (r : RegIdx) : (regField r).toFin = r := rfl

@[simp] theorem regField_of_toFin (f : Nibble) : regField f.toFin = f := rfl

theorem regField_injective {r q : RegIdx} (h : regField r = regField q) : r = q := congrArg BitVec.toFin h

variable (op : Nibble) (d s : RegIdx) (f : Nibble)

/-- The bits of a packed word, from the lowest field up. -/
theorem packWord_getLsbD (j : Nat) :
    (packWord op d s f).getLsbD j =
      if j < 4 then f.getLsbD j else if j - 4 < 4 then (regField s).getLsbD (j - 4)
      else if j - 4 - 4 < 4 then (regField d).getLsbD (j - 4 - 4) else op.getLsbD (j - 4 - 4 - 4) := by
  change (op ++ regField d ++ regField s ++ f : BitVec (4 + 4 + 4 + 4)).getLsbD j = _
  rw [BitVec.getLsbD_append, BitVec.getLsbD_append, BitVec.getLsbD_append]

@[simp] theorem opcodeField_packWord : opcodeField (packWord op d s f) = op := by
  apply BitVec.eq_of_getLsbD_eq
  intro j hj
  rw [opcodeField, BitVec.getLsbD_extractLsb', packWord_getLsbD, if_neg (by omega), if_neg (by omega), if_neg (by omega)]
  simp only [hj, decide_true, Bool.true_and]
  congr 1; omega

@[simp] theorem destField_packWord : destField (packWord op d s f) = d := by
  suffices h : (packWord op d s f).extractLsb' 8 4 = regField d from congrArg BitVec.toFin h
  apply BitVec.eq_of_getLsbD_eq
  intro j hj
  rw [BitVec.getLsbD_extractLsb', packWord_getLsbD, if_neg (by omega), if_neg (by omega), if_pos (by omega)]
  simp only [hj, decide_true, Bool.true_and]
  congr 1; omega

@[simp] theorem src1Field_packWord : src1Field (packWord op d s f) = s := by
  suffices h : (packWord op d s f).extractLsb' 4 4 = regField s from congrArg BitVec.toFin h
  apply BitVec.eq_of_getLsbD_eq
  intro j hj
  rw [BitVec.getLsbD_extractLsb', packWord_getLsbD, if_neg (by omega), if_pos (by omega)]
  simp only [hj, decide_true, Bool.true_and]
  congr 1; omega

@[simp] theorem src2Field_packWord : src2Field (packWord op d s f) = f := by
  apply BitVec.eq_of_getLsbD_eq
  intro j hj
  rw [src2Field, BitVec.getLsbD_extractLsb', packWord_getLsbD, if_pos (by omega)]
  simp only [hj, decide_true, Bool.true_and, Nat.zero_add]

@[simp] theorem src2Reg_packWord : src2Reg (packWord op d s f) = f.toFin := by
  rw [src2Reg, src2Field_packWord]

/-- A word is its four fields packed (30_encoding.md R41). -/
theorem packWord_fields (w : Word) : packWord (opcodeField w) (destField w) (src1Field w) (src2Field w) = w := by
  apply BitVec.eq_of_getLsbD_eq
  intro j hj
  rw [packWord_getLsbD]
  simp only [opcodeField, destField, src1Field, src2Field, regField_of_toFin, BitVec.getLsbD_extractLsb']
  split
  · simp [*]
  · split
    · simp only [*, decide_true, Bool.true_and]; congr 1; omega
    · split
      · simp only [*, decide_true, Bool.true_and]; congr 1; omega
      · have h : j - 4 - 4 - 4 < 4 := by omega
        simp only [h, decide_true, Bool.true_and]; congr 1; omega

/-- Every word has four fields. -/
theorem exists_packWord (w : Word) : ∃ op d s f, w = packWord op d s f :=
  ⟨_, _, _, _, (packWord_fields w).symm⟩

end Sys2Proof
end

