-- ==== Sys2Proof/Laws/State.lean ====
section
/-! SUPPORT. One lemma per field per update of State, so that no proof unfolds a record update. -/

namespace Sys2Proof.Machine

variable (s : State) (d : RegIdx) (v : Word) (r : Record) (i : Instr)

@[simp] theorem State.writeReg_regs : (s.writeReg d v).regs = s.regs.write d v := rfl
@[simp] theorem State.writeReg_inputs : (s.writeReg d v).inputs = s.inputs := rfl
@[simp] theorem State.writeReg_record : (s.writeReg d v).record = s.record := rfl
@[simp] theorem State.writeReg_trace : (s.writeReg d v).trace = s.trace := rfl

@[simp] theorem State.emit_regs : (s.emit r).regs = s.regs := rfl
@[simp] theorem State.emit_inputs : (s.emit r).inputs = s.inputs := rfl
@[simp] theorem State.emit_record : (s.emit r).record = some r := rfl
@[simp] theorem State.emit_trace : (s.emit r).trace = s.trace ++ [r] := rfl

@[simp] theorem State.writeBack_regs : (s.writeBack i v).regs = s.regs.write i.dest v := rfl
@[simp] theorem State.writeBack_inputs : (s.writeBack i v).inputs = s.inputs := rfl
@[simp] theorem State.writeBack_record :
    (s.writeBack i v).record = some ⟨encode i, i.dest, reportedValue i.dest v⟩ := rfl
@[simp] theorem State.writeBack_trace :
    (s.writeBack i v).trace = s.trace ++ [⟨encode i, i.dest, reportedValue i.dest v⟩] := rfl

@[simp] theorem State.advance_regs : s.advance.regs = s.regs := rfl
@[simp] theorem State.advance_inputs : s.advance.inputs = s.inputs.tail := rfl
@[simp] theorem State.advance_record : s.advance.record = none := rfl
@[simp] theorem State.advance_trace : s.advance.trace = s.trace := rfl

@[simp] theorem State.takeReset_regs : s.takeReset.regs = RegFile.zero := rfl
@[simp] theorem State.takeReset_inputs : s.takeReset.inputs = s.inputs.tail := rfl
@[simp] theorem State.takeReset_record : s.takeReset.record = none := rfl
@[simp] theorem State.takeReset_trace : s.takeReset.trace = [] := rfl

@[simp] theorem State.readReg_eq : s.readReg d = s.regs.read d := rfl

end Sys2Proof.Machine
end

