-- ==== Sys2Proof/Laws/Ops.lean ====
section
/-! SUPPORT. What the register file, the write-back and the pins of a step do. -/

namespace Sys2Proof.Machine

/-! ## The register file -/

@[simp] theorem RegFile.read_index_zero (x : RegFile) : x.read 0 = 0x0000 := rfl

@[simp] theorem RegFile.write_index_zero (x : RegFile) (v : Word) : x.write 0 v = x := rfl

theorem RegFile.read_succ (x : RegFile) (n : Nat) (h : n + 1 < 16) :
    x.read ⟨n + 1, h⟩ = x.cells[n] := rfl

theorem RegFile.write_succ (x : RegFile) (n : Nat) (h : n + 1 < 16) (v : Word) :
    x.write ⟨n + 1, h⟩ v = ⟨x.cells.set n v⟩ := rfl

/-- Reading after a write: the written register, unless it is r0, and every other register as before. -/
theorem RegFile.read_write (x : RegFile) (d r : RegIdx) (v : Word) :
    (x.write d v).read r = if r = d ∧ d ≠ 0 then v else x.read r := by
  match d, r with
  | ⟨0, _⟩, r => simp
  | ⟨n + 1, _⟩, ⟨0, _⟩ =>
    have h : (⟨0, by omega⟩ : RegIdx) ≠ ⟨n + 1, by omega⟩ := by simp
    rw [if_neg (fun c => h c.1)]; rfl
  | ⟨n + 1, hn⟩, ⟨m + 1, hm⟩ =>
    rw [RegFile.write_succ, RegFile.read_succ, RegFile.read_succ, Vector.getElem_set]
    simp only [Nat.add_right_cancel_iff, ne_eq, Fin.ext_iff]
    by_cases c : n = m
    · subst c; simp
    · simp [c, Ne.symm c]

@[simp] theorem RegFile.read_zero_file (i : RegIdx) : RegFile.zero.read i = 0x0000 := by
  revert i; decide

/-- Two register files that read alike are the same file: r0 is no cell. -/
theorem RegFile.eq_of_read_eq (x y : RegFile) (h : ∀ i, x.read i = y.read i) : x = y := by
  obtain ⟨x⟩ := x
  obtain ⟨y⟩ := y
  congr 1
  refine Vector.ext fun n hn => ?_
  exact h ⟨n + 1, by omega⟩

/-! ## The reported value -/

@[simp] theorem reportedValue_index_zero (v : Word) : reportedValue 0 v = 0x0000 := rfl

theorem reportedValue_of_ne {d : RegIdx} (h : d ≠ 0) (v : Word) : reportedValue d v = v := if_neg h

/-- A register other than r0 reads as the value its write-back reported, and r0 as the 0 it reported. -/
theorem RegFile.read_write_self (x : RegFile) (d : RegIdx) (v : Word) :
    (x.write d v).read d = reportedValue d v := by
  rw [RegFile.read_write]
  by_cases h : d = 0
  · subst h; simp
  · simp [h, reportedValue_of_ne]

/-! ## The pins -/

@[simp] theorem Pins.event_present (w : Word) : (Pins.present w).event = .instruction w := rfl

@[simp] theorem Pins.event_assertReset : Pins.assertReset.event = .reset := rfl

theorem Pins.event_of_rst {p : Pins} (h : p.rst = true) : p.event = .reset := by simp [Pins.event, h]

theorem Pins.event_eq_idle_iff (p : Pins) : p.event = .idle ↔ p.rst = false ∧ p.instrValid = false := by
  obtain ⟨a, b, w⟩ := p
  cases a <;> cases b <;> simp [Pins.event]

theorem Pins.event_eq_instruction_iff (p : Pins) (w : Word) :
    p.event = .instruction w ↔ p = ⟨false, true, w⟩ := by
  obtain ⟨a, b, w'⟩ := p
  cases a <;> cases b <;> simp [Pins.event]

theorem State.nextEvent_of_cons {s : State} {p : Pins} {ps : List Pins} (h : s.inputs = p :: ps) :
    s.nextEvent = p.event := by simp [State.nextEvent, h]

theorem State.nextEvent_of_nil {s : State} (h : s.inputs = []) : s.nextEvent = .idle := by
  simp [State.nextEvent, h]

end Sys2Proof.Machine
end

