-- ==== Sys2Proof/Laws/Exec.lean ====
section
/-! SUPPORT. What every instruction and every step does, said once: an instruction writes back the one value it computes, and a
step resets, holds, or executes. -/

namespace Sys2Proof.Machine

/-- The value an instruction computes from the registers it names (40_step_and_writeback.md R60). -/
def resultOf (i : Instr) (x : RegFile) : Word :=
  match i with
  | .mov _ r _ => x.read r
  | .add _ r t => add16 (x.read r) (x.read t)
  | .sub _ r t => sub16 (x.read r) (x.read t)
  | .and _ r t => and16 (x.read r) (x.read t)
  | .or _ r t => or16 (x.read r) (x.read t)
  | .xor _ r t => xor16 (x.read r) (x.read t)
  | .sll _ r t => sll16 (x.read r) (shiftAmount (x.read t))
  | .srl _ r t => srl16 (x.read r) (shiftAmount (x.read t))
  | .sra _ r t => sra16 (x.read r) (shiftAmount (x.read t))
  | .addi _ r f => add16 (x.read r) (sext16 f)
  | .andi _ r f => and16 (x.read r) (sext16 f)
  | .ori _ r f => or16 (x.read r) (sext16 f)
  | .xori _ r f => xor16 (x.read r) (sext16 f)
  | .slli _ r f => sll16 (x.read r) (shamtImm f)
  | .srli _ r f => srl16 (x.read r) (shamtImm f)
  | .srai _ r f => sra16 (x.read r) (shamtImm f)

/-- An instruction is its result, written back. -/
theorem exec_eq_writeBack (i : Instr) (s : State) : exec i s = .next (s.writeBack i (resultOf i s.regs)) := by
  cases i <;> rfl

theorem step_of_reset {s : State} (h : s.nextEvent = .reset) : step s = .next s.takeReset := by
  simp [step, h]

theorem step_of_idle {s : State} (h : s.nextEvent = .idle) : step s = .next s.advance := by
  simp [step, h]

theorem step_of_instruction {s : State} {w : Word} (h : s.nextEvent = .instruction w) :
    step s = exec (decode w) s.advance := by
  simp [step, h]

/-- A step that answers a next state has reset, held, or written back one instruction. -/
theorem step_cases {s t : State} (h : step s = .next t) :
    (s.nextEvent = .reset ∧ t = s.takeReset) ∨
    (s.nextEvent = .idle ∧ t = s.advance) ∨
    (∃ w, s.nextEvent = .instruction w ∧
      t = s.advance.writeBack (decode w) (resultOf (decode w) s.regs)) := by
  cases e : s.nextEvent with
  | reset =>
    rw [step_of_reset e] at h
    cases h; exact .inl ⟨rfl, rfl⟩
  | idle =>
    rw [step_of_idle e] at h
    cases h; exact .inr (.inl ⟨rfl, rfl⟩)
  | instruction w =>
    rw [step_of_instruction e, exec_eq_writeBack] at h
    cases h; exact .inr (.inr ⟨w, rfl, rfl⟩)

@[simp] theorem State.withFetchWord_inputs (s : State) (n w : Nat) :
    (s.withFetchWord n w).inputs = Pins.present (wordOfTable n w) :: s.inputs := rfl
@[simp] theorem State.withFetchWord_regs (s : State) (n w : Nat) : (s.withFetchWord n w).regs = s.regs := rfl
@[simp] theorem State.withFetchWord_record (s : State) (n w : Nat) : (s.withFetchWord n w).record = s.record := rfl
@[simp] theorem State.withFetchWord_trace (s : State) (n w : Nat) : (s.withFetchWord n w).trace = s.trace := rfl

end Sys2Proof.Machine
end

