-- ==== Sys2Proof/Laws/PerInstr.lean ====
section
/-! SUPPORT. The family EncodedFields: an instruction's word carries the instruction's operands in the fields of 30_encoding.md R41. -/

namespace Sys2Proof.Laws.EncodedFields

/-- The word of the instruction names its destination and its first source, and, where it has a second source, that register; it is legal. -/
def Statement (i : Instr) : Prop :=
  i.wellFormed = true ∧ destField (encode i) = i.dest ∧ src1Field (encode i) = i.src1 ∧
    ∀ t, i.src2 = some t → src2Reg (encode i) = t

theorem mov (d s : RegIdx) (f : Nibble) : Statement (.mov d s f) := by
  simp [Statement, Instr.wellFormed, encode, Instr.dest, Instr.src1, Instr.src2]

theorem add (d s t : RegIdx) : Statement (.add d s t) := by
  simp [Statement, Instr.wellFormed, encode, Instr.dest, Instr.src1, Instr.src2]

theorem sub (d s t : RegIdx) : Statement (.sub d s t) := by
  simp [Statement, Instr.wellFormed, encode, Instr.dest, Instr.src1, Instr.src2]

theorem and (d s t : RegIdx) : Statement (.and d s t) := by
  simp [Statement, Instr.wellFormed, encode, Instr.dest, Instr.src1, Instr.src2]

theorem or (d s t : RegIdx) : Statement (.or d s t) := by
  simp [Statement, Instr.wellFormed, encode, Instr.dest, Instr.src1, Instr.src2]

theorem xor (d s t : RegIdx) : Statement (.xor d s t) := by
  simp [Statement, Instr.wellFormed, encode, Instr.dest, Instr.src1, Instr.src2]

theorem sll (d s t : RegIdx) : Statement (.sll d s t) := by
  simp [Statement, Instr.wellFormed, encode, Instr.dest, Instr.src1, Instr.src2]

theorem srl (d s t : RegIdx) : Statement (.srl d s t) := by
  simp [Statement, Instr.wellFormed, encode, Instr.dest, Instr.src1, Instr.src2]

theorem sra (d s t : RegIdx) : Statement (.sra d s t) := by
  simp [Statement, Instr.wellFormed, encode, Instr.dest, Instr.src1, Instr.src2]

theorem addi (d s : RegIdx) (f : Nibble) : Statement (.addi d s f) := by
  simp [Statement, Instr.wellFormed, encode, Instr.dest, Instr.src1, Instr.src2]

theorem andi (d s : RegIdx) (f : Nibble) : Statement (.andi d s f) := by
  simp [Statement, Instr.wellFormed, encode, Instr.dest, Instr.src1, Instr.src2]

theorem ori (d s : RegIdx) (f : Nibble) : Statement (.ori d s f) := by
  simp [Statement, Instr.wellFormed, encode, Instr.dest, Instr.src1, Instr.src2]

theorem xori (d s : RegIdx) (f : Nibble) : Statement (.xori d s f) := by
  simp [Statement, Instr.wellFormed, encode, Instr.dest, Instr.src1, Instr.src2]

theorem slli (d s : RegIdx) (f : Nibble) : Statement (.slli d s f) := by
  simp [Statement, Instr.wellFormed, encode, Instr.dest, Instr.src1, Instr.src2]

theorem srli (d s : RegIdx) (f : Nibble) : Statement (.srli d s f) := by
  simp [Statement, Instr.wellFormed, encode, Instr.dest, Instr.src1, Instr.src2]

theorem srai (d s : RegIdx) (f : Nibble) : Statement (.srai d s f) := by
  simp [Statement, Instr.wellFormed, encode, Instr.dest, Instr.src1, Instr.src2]

end Sys2Proof.Laws.EncodedFields
end

