-- ==== Sys2Proof/Laws/Run.lean ====
section
/-! SUPPORT. How an instruction meets `WritesBack`, and how a run unfolds by one sample. -/

namespace Sys2Proof.Machine

/-- An instruction writes back to its destination the value its registers give: what every result statement comes down to. -/
theorem writesBack_of_result {i : Instr} {s : State} {d : RegIdx} {v : Word} (hd : d = i.dest)
    (hv : v = resultOf i s.regs) : WritesBack i d v s := by
  subst hd hv
  refine ⟨_, exec_eq_writeBack i s, fun r => ?_, rfl, rfl, rfl⟩
  simp [RegFile.read_write]

/-- One step of the host's run. -/
theorem core_run_succ {n : Nat} {s t : State} (h : step s = .next t) :
    Sys2Proof.core.run (n + 1) s = Sys2Proof.core.run n t := by
  have h' : Sys2Proof.core.step s = .next t := h
  simp only [Host.Core.run, h']

/-- The run over no sample only forgets what the driver held. -/
theorem runSamples_nil (s : State) : runSamples s [] = .next { s with inputs := [] } := rfl

/-- The run over a sample and more is the step on that sample, then the run over the rest. -/
theorem runSamples_cons {s t : State} {p : Pins} {ps : List Pins} (h : step { s with inputs := p :: ps } = .next t)
    (hi : t.inputs = ps) : runSamples s (p :: ps) = runSamples t ps := by
  unfold runSamples
  rw [List.length_cons, core_run_succ h]
  subst hi; rfl

/-- The latest value after one more record. -/
theorem latestValue_append (i : RegIdx) (rs : List Record) (r : Record) :
    latestValue i (rs ++ [r]) = if r.dest = i then r.value else latestValue i rs := by
  induction rs with
  | nil => simp [latestValue]
  | cons a rs ih =>
    simp only [List.cons_append, latestValue, List.any_append, List.any_cons, List.any_nil, Bool.or_false, ih]
    by_cases h : r.dest = i <;> simp [h]

end Sys2Proof.Machine
end

