-- ==== Sys2Proof/Laws/Text.lean ====
section
/-! SUPPORT. The digits and lines of the text forms. -/

namespace Sys2Proof.Machine

/-- A written digit reads back. -/
@[simp] theorem hexDigit_hexChar (v : Nibble) : hexDigit? (hexChar v) = some v := by
  revert v; decide

/-- A written digit is one of the sixteen lower-case digits. -/
theorem hexChar_mem (v : Nibble) : hexChar v ∈ hexDigits.toList := by
  revert v; decide

/-- The word of a line of five characters, in terms of its digits. -/
theorem parseLine_of_digits {a b c d : Char} {p q r u : Nibble} (ha : hexDigit? a = some p) (hb : hexDigit? b = some q)
    (hc : hexDigit? c = some r) (hd : hexDigit? d = some u) :
    parseLine [a, b, c, d, Config.lineTerminator] = some (p ++ q ++ r ++ u) := by
  simp [parseLine, ha, hb, hc, hd]

/-- A line that is accepted is four digits and the terminator. -/
theorem parseLine_eq_some {l : List Char} {w : Word} (h : parseLine l = some w) :
    ∃ a b c d p q r u, l = [a, b, c, d, Config.lineTerminator] ∧ hexDigit? a = some p ∧ hexDigit? b = some q ∧
      hexDigit? c = some r ∧ hexDigit? d = some u ∧ w = p ++ q ++ r ++ u := by
  unfold parseLine at h
  split at h
  · split at h
    · split at h
      · rename_i ht _ _ _ _ p q r u ha hb hc hd
        cases h
        exact ⟨_, _, _, _, p, q, r, u, by rw [ht], ha, hb, hc, hd, rfl⟩
      · cases h
    · cases h
  · cases h

end Sys2Proof.Machine
end

