-- ==== Sys2Proof/Tests/Slice0.lean ====
section
/-! SUPPORT. The model's own tests. Expected words come from the spec's encodings (30_encoding.md R45) and expected trace lines
from 95_test_vectors.md (the section is named at each group). -/

namespace Sys2Proof.Tests

open Sys2Proof Sys2Proof.Machine

/-- Registers 2 and 3 as the vectors of 95_test_vectors.md section 2 set them, r1 holding 0x00AA. -/
def start (r2 r3 : Word) : State := ((State.reset.writeReg 1 0x00AA).writeReg 2 r2).writeReg 3 r3

/-- The trace text of one step on a word, and what registers 1, 2 and 3 then hold. -/
def stepOn (s : State) (w : Nat) : String × Word × Word × Word :=
  match step (s.withFetchWord 16 w) with
  | .next t => (String.ofList (traceText t.trace), t.readReg 1, t.readReg 2, t.readReg 3)
  | .fault _ => ("fault", 0, 0, 0)
  | .refused _ => ("refused", 0, 0, 0)

/-! ## Decoding: each constructor's word, written bit by bit -/

theorem test_decode_mov : decode 0b0000101010111100 = .mov 10 11 12 := by decide
theorem test_decode_add : decode 0b0001001000110100 = .add 2 3 4 := by decide
theorem test_decode_sub : decode 0b0010111111101101 = .sub 15 14 13 := by decide
theorem test_decode_and : decode 0b0011000100100011 = .and 1 2 3 := by decide
theorem test_decode_or : decode 0b0100001100100001 = .or 3 2 1 := by decide
theorem test_decode_xor : decode 0b0101101001011010 = .xor 10 5 10 := by decide
theorem test_decode_sll : decode 0b0110010000100000 = .sll 4 2 0 := by decide
theorem test_decode_srl : decode 0b0111000100100011 = .srl 1 2 3 := by decide
theorem test_decode_sra : decode 0b1000000000011000 = .sra 0 1 8 := by decide
theorem test_decode_addi : decode 0b1001111100000001 = .addi 15 0 1 := by decide
theorem test_decode_andi : decode 0b1010010110101000 = .andi 5 10 8 := by decide
theorem test_decode_ori : decode 0b1011000000000111 = .ori 0 0 7 := by decide
theorem test_decode_xori : decode 0b1100000100101111 = .xori 1 2 15 := by decide
theorem test_decode_slli : decode 0b1101000100101111 = .slli 1 2 15 := by decide
theorem test_decode_srli : decode 0b1110001111001000 = .srli 3 12 8 := by decide
theorem test_decode_srai : decode 0b1111000100100100 = .srai 1 2 4 := by decide

/-- Encodings from the examples of files 42 to 46. -/
theorem test_encode_examples :
    encode (.sub 1 2 3) = 0x2123 ∧ encode (.sra 1 2 3) = 0x8123 ∧ encode (.andi 1 2 8) = 0xA128 ∧ encode (.srai 1 2 4) = 0xF124 := by
  decide

/-- No two rows of the opcode table share a word, and there are sixteen (30_encoding.md R45). -/
theorem test_opcode_rows_disjoint :
    opcodeTable.length = 16 ∧ opcodeTable.Pairwise (fun p q => p.pattern &&& q.mask ≠ q.pattern &&& p.mask) := by decide

/-- A table row longer than one word is rejected by name. -/
theorem test_decode_rejects_two_words : decodeSized 32 0x00001234 = .error .notOneWord ∧ decodeTableWord 32 0x1234 = none := ⟨rfl, rfl⟩
theorem test_decode_table_word : decodeTableWord 16 0x8123 = some (.sra 1 2 3) := by decide

/-! ## One step of each instruction (95_test_vectors.md section 2; destination r1, sources r2 and r3 or the field) -/

theorem test_mov_ignores_low_bits : stepOn (start 0x1234 0xFFFF) 0x012F = ("012f11234\n", 0x1234, 0x1234, 0xFFFF) := by decide
theorem test_mov_zero_register : stepOn (start 0x1234 0xFFFF) 0x0100 = ("010010000\n", 0, 0x1234, 0xFFFF) := by decide
theorem test_add_wraps : stepOn (start 0x7FFF 0x0001) 0x1123 = ("112318000\n", 0x8000, 0x7FFF, 1) := by decide
theorem test_add_source_is_destination : (stepOn (State.reset.writeReg 1 0x0003) 0x1111).1 = "111110006\n" := by decide
theorem test_sub_order : stepOn (start 0x0FF0 0x1234) 0x2123 = ("21231fdbc\n", 0xFDBC, 0x0FF0, 0x1234) := by decide
theorem test_sub_wraps : stepOn (start 0x8000 0x0001) 0x2123 = ("212317fff\n", 0x7FFF, 0x8000, 1) := by decide
theorem test_and : (stepOn (start 0x1234 0x0FF0) 0x3123).1 = "312310230\n" := by decide
theorem test_or : (stepOn (start 0x1234 0x0FF0) 0x4123).1 = "412311ff4\n" := by decide
theorem test_xor : (stepOn (start 0x1234 0x0FF0) 0x5123).1 = "512311dc4\n" := by decide
theorem test_sll_amount_masked : (stepOn (start 0x8001 0x0010) 0x6123).1 = "612318001\n" := by decide
theorem test_sll_truncates : (stepOn (start 0x8001 0xFFF4) 0x6123).1 = "612310010\n" := by decide
theorem test_srl_zero_fill : (stepOn (start 0x8001 0x0001) 0x7123).1 = "712314000\n" := by decide
theorem test_srl_amount_masked : (stepOn (start 0xFFFF 0x8008) 0x7123).1 = "7123100ff\n" := by decide
theorem test_sra_sign_fill : (stepOn (start 0x8001 0x0001) 0x8123).1 = "81231c000\n" := by decide
theorem test_sra_rounds_down : (stepOn (start 0xFFFF 0x0001) 0x8123).1 = "81231ffff\n" := by decide
theorem test_addi_negative : (stepOn (start 0x8000 0) 0x9128).1 = "912817ff8\n" := by decide
theorem test_addi_source_example : (stepOn State.reset 0x9F01).1 = "9f01f0001\n" := by decide
theorem test_andi_sign_extended : (stepOn (start 0xFFFF 0) 0xA128).1 = "a1281fff8\n" := by decide
theorem test_andi_clears : (stepOn (start 0x1234 0) 0xA127).1 = "a12710004\n" := by decide
theorem test_ori_sign_extended : (stepOn (start 0x1234 0) 0xB128).1 = "b1281fffc\n" := by decide
theorem test_xori_complements : (stepOn (start 0x1234 0) 0xC12F).1 = "c12f1edcb\n" := by decide
theorem test_slli_by_eight : (stepOn (start 0x1234 0) 0xD128).1 = "d12813400\n" := by decide
theorem test_slli_by_fifteen : (stepOn (start 0x7FFF 0) 0xD12F).1 = "d12f18000\n" := by decide
theorem test_srli_by_fifteen : (stepOn (start 0x8001 0) 0xE12F).1 = "e12f10001\n" := by decide
theorem test_srai_by_eight : (stepOn (start 0x8001 0) 0xF128).1 = "f1281ff80\n" := by decide

/-- A discarded write reports 0 (95_test_vectors.md S8). -/
theorem test_destination_zero : stepOn (start 0x1234 0x0FF4) 0x1023 = ("102300000\n", 0x00AA, 0x1234, 0x0FF4) := by decide

/-! ## The checks of the written form (30_encoding.md R51), each with an ill-formed term it refuses -/

theorem test_wf_accepts : (AsmInstr.imm .addi 15 0 (.decimal (-8))).wellFormed = true := by decide
theorem test_wf_refuses_register : (AsmInstr.mov 16 0).wellFormed = false := by decide
theorem test_wf_refuses_second_source : (AsmInstr.reg .add 1 2 16).wellFormed = false := by decide
theorem test_wf_refuses_decimal : (AsmInstr.imm .addi 1 2 (.decimal 8)).wellFormed = false := by decide
theorem test_wf_refuses_low_decimal : (AsmInstr.imm .addi 1 2 (.decimal (-9))).wellFormed = false := by decide
theorem test_wf_refuses_pattern : (AsmInstr.imm .ori 1 1 (.pattern 0x0008)).wellFormed = false := by decide
theorem test_wf_refuses_addi_pattern : (AsmInstr.imm .addi 1 1 (.pattern 0x0001)).wellFormed = false := by decide
theorem test_wf_refuses_shamt : (AsmInstr.shift .slli 1 2 16).wellFormed = false := by decide

/-- Every instruction is well-formed, at the extreme operands too (30_encoding.md R46). -/
theorem test_wf_every_word : (decode 0xFFFF).wellFormed = true ∧ (decode 0x0000).wellFormed = true := by decide

/-! ## Text and assembly -/

theorem test_input_either_case : parseInput "1234\n9F01\n9f01\n".toList = some [0x1234, 0x9F01, 0x9F01] := by decide
theorem test_input_malformed : parseInput "12G4\n".toList = none ∧ parseInput "12345\n".toList = none ∧ parseInput "1234".toList = none := by
  decide
theorem test_assemble_pattern : assemble (.imm .ori 1 1 (.pattern 0xFFF8)) = some (.ori 1 1 8) := by decide
theorem test_parse_asm :
    parseAsm "ADD r2, r3, r4".toList = some (.reg .add 2 3 4) ∧ parseAsm "MOV   r1, r2   ; low bits".toList = some (.mov 1 2) ∧
      parseAsm "ORI r1, r1, 0xFFF8".toList = some (.imm .ori 1 1 (.pattern 0xFFF8)) ∧
      parseAsm "ADDI r1, r2, -8".toList = some (.imm .addi 1 2 (.decimal (-8))) ∧
      parseAsm "SRAI r2, r1, 15".toList = some (.shift .srai 2 1 15) ∧ parseAsm "SUBI r1, r2, 1".toList = none := by decide
theorem test_parse_of_disassembly :
    (parseAsm (disassemble (.xori 15 0 9)).toList).bind assemble = some (.xori 15 0 9) ∧
      (parseAsm (disassemble (.mov 1 2 3)).toList).bind assemble = some (.mov 1 2 0) := by decide
theorem test_same_trace : sameTrace "9F01F0001\r\n".toList "9f01f0001\n".toList = true ∧ sameTrace "0".toList "1".toList = false := by
  decide
/-- The source's end-to-end example (95_test_vectors.md S2, S3). -/
theorem test_driver_example :
    State.reset.driverOutput "9100\n9110\n".toList = .next "910010000\n911010000\n".toList := by rfl
theorem test_disassemble :
    disassemble (.addi 1 2 8) = "ADDI r1, r2, -8" ∧ disassemble (.slli 1 2 8) = "SLLI r1, r2, 8" ∧
      disassemble (.mov 1 2 3) = "MOV r1, r2 ; 0123" := by decide

/-! ## Witnesses: a concrete case that meets the hypotheses of each statement that has some -/

/-- `start` with the pins given. -/
def facing (ps : List Pins) : State := { start 0x8001 0xFFF4 with inputs := ps }

theorem witness_AssertedResetStartsNewRun :
    (facing [⟨true, true, 0x1123⟩, .present 0x9101]).inputs = ⟨true, true, 0x1123⟩ :: [.present 0x9101] ∧
      (⟨true, true, 0x1123⟩ : Pins).rst = true := by decide
theorem witness_CoreHoldsWhenNothingIsPresented :
    ((facing [⟨false, false, 0x1123⟩]).inputs = [⟨false, false, 0x1123⟩] ∧ (⟨false, false, 0x1123⟩ : Pins).rst = false ∧
      (⟨false, false, 0x1123⟩ : Pins).instrValid = false) ∧ (facing []).inputs = [] := by decide
theorem witness_ShiftsMoveBitsAndScale : (0 : Nat) ≤ 15 ∧ (15 : Nat) ≤ 15 ∧ (0 : Nat) < 16 ∧ (15 : Nat) < 16 := by decide
theorem witness_bit_numbers_of_the_bitwise_statements : (0 : Nat) < 16 ∧ (15 : Nat) < 16 := by decide
theorem witness_ShiftAmountIsLowFourBits :
    ((start 0x8001 0xFFF4).readReg 3).extractLsb' 0 4 = 0x4 ∧ ((start 0x8001 0xFFFF).readReg 3).extractLsb' 0 4 = 0xF ∧
      ((start 0x8001 0xFFFF).readReg 0).extractLsb' 0 4 = 0x0 := by decide
theorem witness_OpcodeTableSelectsEveryWord :
    (⟨"SRAI", .registerImmediate, 0xF000, 0xF000⟩ : OpcodeRow) ∈ opcodeTable ∧
      (⟨"SRAI", .registerImmediate, 0xF000, 0xF000⟩ : OpcodeRow).matchesWord 0xF124 = true := by decide
theorem witness_MovIgnoresLowFourBits :
    opcodeField 0x0120 = 0x0 ∧ (0x0120 : Word) >>> 4 = (0x012F : Word) >>> 4 := by decide
theorem witness_DecoderOutputsFollowOperandClass :
    (⟨"SRA", .registerRegister, 0xF000, 0x8000⟩ : OpcodeRow) ∈ opcodeTable ∧
      (⟨"SRA", .registerRegister, 0xF000, 0x8000⟩ : OpcodeRow).matchesWord 0x8123 = true ∧
      (⟨"MOV", .move, 0xF000, 0x0000⟩ : OpcodeRow).matchesWord 0x0FFF = true ∧
      (⟨"ADDI", .registerImmediate, 0xF000, 0x9000⟩ : OpcodeRow).matchesWord 0x9000 = true := by decide
theorem witness_StepExecutesPresentedWord :
    (facing [⟨false, true, 0x1123⟩]).inputs = [⟨false, true, 0x1123⟩] := by decide
theorem witness_RecValidFollowsInstrValid :
    (facing [⟨false, true, 0x1123⟩]).inputs = [⟨false, true, 0x1123⟩] ∧ (facing [⟨true, true, 0x1123⟩]).inputs = [⟨true, true, 0x1123⟩] := by
  decide
theorem witness_DestinationZeroChangesNothing : destField 0x1023 = 0 := by decide
theorem witness_NextWordIsAlwaysTheNextInOrder :
    (facing [.present 0x1123, .present 0x9101]).inputs = .present 0x1123 :: [.present 0x9101] := by decide
theorem witness_RecordDependsOnNamedRegistersOnly :
    (start 5 6).readReg (Instr.addi 1 2 3).src1 = (start 5 7).readReg (Instr.addi 1 2 3).src1 ∧
      (∀ t, (Instr.addi 1 2 3).src2 = some t → (start 5 6).readReg t = (start 5 7).readReg t) ∧
      ((start 5 6).readReg (Instr.add 1 2 2).src1 = (start 5 7).readReg (Instr.add 1 2 2).src1 ∧
        ∀ t, (Instr.add 1 2 2).src2 = some t → (start 5 6).readReg t = (start 5 7).readReg t) := by decide
theorem witness_nonzero_destination : (1 : RegIdx) ≠ 0 ∧ (15 : RegIdx) ≠ 0 := by decide
theorem witness_MovTwiceGivesSameValue : (1 : RegIdx) ≠ 2 := by decide
theorem witness_BlockDiagramComputesTheStep :
    (facing [.present 0x8123, .present 0x9101]).inputs = .present 0x8123 :: [.present 0x9101] := by decide
theorem witness_IdleStepsAreInvisible :
    (facing [⟨false, false, 0x1123⟩]).inputs = [⟨false, false, 0x1123⟩] ∧ (⟨false, false, 0x1123⟩ : Pins).event = .idle := by decide
theorem witness_RunIsSequentialComposition :
    runSamples (start 1 2) [.present 0x1123] =
      .next ((start 1 2).writeBack (.add 1 2 3) 3) := rfl
theorem witness_ResetForgetsTheEarlierRun : Pins.assertReset.rst = true := rfl
theorem witness_DriverWritesOneTraceLinePerWord :
    parseInput "9100\n9110\n".toList = some [0x9100, 0x9110] ∧ parseInput [] = some [] := by decide
theorem witness_AssembledOperandsAreTheWrittenOnes :
    assemble (.mov 15 0) = some (.mov 15 0 0) ∧ assemble (.reg .sub 1 2 15) = some (.sub 1 2 15) ∧
      assemble (.imm .addi 1 2 (.decimal (-8))) = some (.addi 1 2 8) ∧ assemble (.imm .andi 1 2 (.pattern 0xFFF8)) = some (.andi 1 2 8) ∧
      assemble (.shift .srai 1 2 15) = some (.srai 1 2 15) := by decide
theorem witness_IdiomsHaveTheirEffects :
    ((-8 : Int) ≤ -8 ∧ (-8 : Int) ≤ 7) ∧ ((-8 : Int) ≤ 7 ∧ (7 : Int) ≤ 7) ∧ ((-7 : Int) ≤ -7 ∧ (-7 : Int) ≤ 8) ∧
      ((-7 : Int) ≤ 8 ∧ (8 : Int) ≤ 8) := by decide

/-- A state of a run: r1 has been written, its record is on the pins, and the driver presents one more word. -/
def midRun : State := (State.reset.withFetchWord 16 0x1211).writeBack (.addi 1 0 5) 5

theorem witness_EveryStepKeepsTraceConsistent :
    midRun.TraceConsistent ∧ step midRun = .next (midRun.advance.writeBack (.add 2 1 1) 10) := by
  refine ⟨⟨by decide, ?_, ?_⟩, rfl⟩
  · intro r hr
    have h : r = ⟨0x9105, 1, 5⟩ := List.mem_singleton.mp hr
    subst h
    exact ⟨by decide, by decide⟩
  · intro r hr
    exact hr

end Sys2Proof.Tests
end

/-! ## Words and digits: decoding loses no bit, and four digits are the four fields of a word -/

section
namespace Sys2Proof

theorem encode_decode_packWord (op : Nibble) (d s : RegIdx) (f : Nibble) :
    encode (decode (packWord op d s f)) = packWord op d s f := by
  simp only [decode, opcodeField_packWord, destField_packWord, src1Field_packWord, src2Field_packWord, src2Reg_packWord]
  obtain ⟨n⟩ := op
  fin_cases n <;> rfl

/-- The record's word, which is the encoding of the executed instruction (log 14), is the presented word. -/
@[simp] theorem encode_decode (w : Word) : encode (decode w) = w := by
  obtain ⟨op, d, s, f, rfl⟩ := exists_packWord w
  exact encode_decode_packWord op d s f

@[simp] theorem destField_encode (i : Instr) : destField (encode i) = i.dest := by
  cases i <;> exact destField_packWord ..

@[simp] theorem dest_decode (w : Word) : (decode w).dest = destField w := by
  rw [← destField_encode, encode_decode]

section

/- Four digits side by side are by definition `packWord` of them, so the field lemmas read them back. -/
variable (p q r u : Nibble)

@[simp] theorem extract_first_digit : (p ++ q ++ r ++ u).extractLsb' 12 4 = p :=
  opcodeField_packWord p q.toFin r.toFin u

@[simp] theorem extract_second_digit : (p ++ q ++ r ++ u).extractLsb' 8 4 = q :=
  BitVec.toFin_injective (destField_packWord p q.toFin r.toFin u)

@[simp] theorem extract_third_digit : (p ++ q ++ r ++ u).extractLsb' 4 4 = r :=
  BitVec.toFin_injective (src1Field_packWord p q.toFin r.toFin u)

@[simp] theorem extract_fourth_digit : (p ++ q ++ r ++ u).extractLsb' 0 4 = u :=
  src2Field_packWord p q.toFin r.toFin u

end

end Sys2Proof
end

section
namespace Sys2Proof.Machine

/-! ## Consistency with the trace (10_state.md R14, R20, R21) -/

theorem State.traceConsistent_of_cleared {s : State} (hregs : s.regs = RegFile.zero) (hrecord : s.record = none)
    (htrace : s.trace = []) : s.TraceConsistent where
  regs_follow_trace i := by simp [hregs, htrace, latestValue]
  records_consistent r hr := by simp [htrace] at hr
  pins_show_last r hr := by simp [hrecord] at hr

theorem State.TraceConsistent.advance {s : State} (h : s.TraceConsistent) : s.advance.TraceConsistent where
  regs_follow_trace := h.regs_follow_trace
  records_consistent := h.records_consistent
  pins_show_last r hr := by simp at hr

/-- Write-back reports what the destination then reads, so its record is the destination's latest and nobody else's. -/
theorem State.TraceConsistent.writeBack {s : State} (h : s.TraceConsistent) (i : Instr) (v : Word) :
    (s.writeBack i v).TraceConsistent where
  regs_follow_trace r := by
    rw [State.readReg_eq, State.writeBack_regs, State.writeBack_trace, latestValue_append]
    by_cases hr : i.dest = r
    · subst hr
      rw [RegFile.read_write_self, if_pos rfl]
    · rw [RegFile.read_write, if_neg (fun c => hr c.1.symm), if_neg hr]
      exact h.regs_follow_trace r
  records_consistent r hr := by
    rw [State.writeBack_trace, List.mem_append, List.mem_singleton] at hr
    obtain hr | rfl := hr
    · exact h.records_consistent r hr
    · refine ⟨(destField_encode i).symm, fun hd => ?_⟩
      have hd : i.dest = 0 := hd
      simp [hd]
  pins_show_last r hr := by simpa using hr

/-! ## One step -/

theorem exists_step (s : State) : ∃ t, step s = .next t := by
  cases e : s.nextEvent with
  | reset => exact ⟨_, step_of_reset e⟩
  | idle => exact ⟨_, step_of_idle e⟩
  | instruction w => exact ⟨_, (step_of_instruction e).trans (exec_eq_writeBack _ _)⟩

theorem Pins.event_eq_reset_iff (p : Pins) : p.event = .reset ↔ p.rst = true := by
  obtain ⟨rst, valid, w⟩ := p
  cases rst <;> cases valid <;> simp [Pins.event]

theorem State.advance_of_cons {s : State} {p : Pins} {ps : List Pins} (h : s.inputs = p :: ps) :
    s.advance = { s with inputs := ps, record := none } := by
  rw [State.advance, h, List.tail_cons]

/-! ## A run of words -/

/-- A presented word adds one record, its own, to the trace, and the run goes on with the other samples. -/
theorem runSamples_present_cons (s : State) (w : Word) (ps : List Pins) :
    ∃ t r, runSamples s (Pins.present w :: ps) = runSamples t ps ∧ t.trace = s.trace ++ [r] ∧ r.instr = w := by
  have hevent : State.nextEvent { s with inputs := Pins.present w :: ps } = .instruction w := Pins.event_present w
  have hstep := (step_of_instruction hevent).trans (exec_eq_writeBack _ _)
  exact ⟨_, _, runSamples_cons hstep rfl, rfl, encode_decode w⟩

/-! ## The sign of a difference (10_state.md R17) -/

theorem sub16_eq_trunc16 (a b : Word) : sub16 a b = trunc16 (signed a - signed b) := by
  apply BitVec.eq_of_toInt_eq
  rw [sub16, trunc16, signed_eq_toInt, signed_eq_toInt, BitVec.toInt_sub, BitVec.toInt_ofInt]

theorem signed_neg_iff (a : Word) : signed a < 0 ↔ a.getLsbD 15 = true := by
  have hmsb : a.getLsbD 15 = a.msb := (BitVec.msb_eq_getLsbD_last a).symm
  rw [hmsb, signed_eq_toInt, BitVec.msb_eq_toInt, decide_eq_true_iff]

/-- Fifteen places leave only copies of bit 15. -/
theorem sra16_fifteen (a : Word) : sra16 a 15 = if a.getLsbD 15 then 0xFFFF else 0x0000 := by
  apply BitVec.eq_of_getLsbD_eq
  intro j hj
  have hbit : (sra16 a 15).getLsbD j = a.getLsbD 15 := by
    rw [sra16_getLsbD a 15 j hj]
    split
    · congr 1; omega
    · rfl
  rw [hbit]
  cases a.getLsbD 15 with
  | true => exact (BitVec.getLsbD_allOnes.trans (decide_eq_true hj)).symm
  | false => exact BitVec.getLsbD_zero.symm

/-! ## Lines -/

theorem map_hexChar_subset (vs : List Nibble) : vs.map hexChar ⊆ hexDigits.toList := by
  intro c hc
  obtain ⟨v, -, rfl⟩ := List.mem_map.mp hc
  exact hexChar_mem v

theorem parseLine_inputLine (w : Word) : parseLine (inputLine w) = some w :=
  (parseLine_of_digits (hexDigit_hexChar _) (hexDigit_hexChar _) (hexDigit_hexChar _) (hexDigit_hexChar _)).trans
    (congrArg some (packWord_fields w))

theorem parseInput_inputLine_append (w : Word) (text : List Char) :
    parseInput (inputLine w ++ text) = (parseInput text).map (w :: ·) := by
  have h := parseLine_inputLine w
  simp only [inputLine, hexWord, List.cons_append, List.nil_append] at h ⊢
  rw [parseInput, h]
  cases parseInput text <;> rfl

end Sys2Proof.Machine
end

/-! ## The statements about state, step, records and text forms -/

section
namespace Sys2Proof.Proofs

open Sys2Proof Sys2Proof.Machine

/-- Settles O45, by the three things a step can do: a cleared state is consistent, and holding and write-back keep it so. -/
theorem everyStepKeepsTraceConsistent : Obligations.EveryStepKeepsTraceConsistent := by
  intro s t hs hstep
  obtain ⟨-, rfl⟩ | ⟨-, rfl⟩ | ⟨w, -, rfl⟩ := step_cases hstep
  · exact State.traceConsistent_of_cleared rfl rfl rfl
  · exact hs.advance
  · exact hs.advance.writeBack _ _

/-- Settles O33, by the three things a step can do and the pins that ask for each. -/
theorem recValidFollowsInstrValid : Obligations.RecValidFollowsInstrValid := by
  intro s p ps hinputs
  obtain ⟨t, hstep⟩ := exists_step s
  refine ⟨t, hstep, ?_⟩
  have hcases := step_cases hstep
  rw [State.nextEvent_of_cons hinputs] at hcases
  obtain ⟨hp, rfl⟩ | ⟨hp, rfl⟩ | ⟨w, hp, rfl⟩ := hcases
  · have hrst := (Pins.event_eq_reset_iff p).mp hp
    simp [hrst]
  · obtain ⟨-, hvalid⟩ := (Pins.event_eq_idle_iff p).mp hp
    simp [hvalid]
  · have hpins := (Pins.event_eq_instruction_iff p w).mp hp
    simp [hpins]

/-- Settles O36: the record is write-back's, whose word is the decoded word encoded again. -/
theorem recordShowsWordDestinationAndValue : Obligations.RecordShowsWordDestinationAndValue := by
  intro w s
  refine ⟨_, _, exec_eq_writeBack _ s, rfl, encode_decode w, dest_decode w, ?_⟩
  rw [State.readReg_eq, State.writeBack_regs, ← dest_decode, RegFile.read_write_self]

/-- Settles O42: SUB leaves the wrapped difference in a register other than r0, and fifteen places leave copies of its bit 15. -/
theorem subThenSraiGivesSignOfDifference : Obligations.SubThenSraiGivesSignOfDifference := by
  intro d r t s hd
  refine ⟨_, exec_eq_writeBack _ s, writesBack_of_result rfl ?_, ?_⟩
  · have hread : (s.regs.write d (sub16 (s.regs.read r) (s.regs.read t))).read d =
        sub16 (s.regs.read r) (s.regs.read t) := by
      rw [RegFile.read_write_self, reportedValue_of_ne hd]
    exact (congrArg (sra16 · 15) hread).symm
  · rw [differenceSign, sra16_fifteen, ← sub16_eq_trunc16]
    simp only [signed_neg_iff]

/-- Settles O47, by induction on the words. -/
theorem runYieldsOneRecordPerWordInOrder : Obligations.RunYieldsOneRecordPerWordInOrder := by
  intro s ws
  induction ws generalizing s with
  | nil => exact ⟨_, [], runSamples_nil s, (List.append_nil _).symm, rfl⟩
  | cons w ws ih =>
    obtain ⟨t, r, hrun, htrace, hword⟩ := runSamples_present_cons s w (ws.map Pins.present)
    obtain ⟨u, rs, hrest, hrestTrace, hwords⟩ := ih t
    refine ⟨u, r :: rs, hrun.trans hrest, ?_, by rw [List.map_cons, hword, hwords]⟩
    rw [hrestTrace, htrace, List.append_assoc, List.singleton_append]

/-- Settles O50: the digits of an accepted line are the fields of its word, and the fields of a word make up the word. -/
theorem inputLineIsFourDigitsMostSignificantFirst : Obligations.InputLineIsFourDigitsMostSignificantFirst := by
  intro l w
  constructor
  · intro h
    obtain ⟨a, b, c, d, p, q, r, u, hl, ha, hb, hc, hd, rfl⟩ := parseLine_eq_some h
    exact ⟨a, b, c, d, hl, by simp [ha], by simp [hb], by simp [hc], by simp [hd]⟩
  · rintro ⟨a, b, c, d, rfl, ha, hb, hc, hd⟩
    exact (parseLine_of_digits ha hb hc hd).trans (congrArg some (packWord_fields w))

/-- Settles O51, by induction on the words. -/
theorem inputTextReadsBack : Obligations.InputTextReadsBack := by
  intro ws
  induction ws with
  | nil => rfl
  | cons w ws ih => rw [List.flatMap_cons, parseInput_inputLine_append, ih, Option.map_some]

/-- Settles O52: each digit is a written one, which is lower-case and reads back. -/
theorem traceLineIsNineDigits : Obligations.TraceLineIsNineDigits := by
  intro r
  refine ⟨_, _, _, _, _, _, _, _, _, rfl, ?_, hexDigit_hexChar _, hexDigit_hexChar _, hexDigit_hexChar _, hexDigit_hexChar _,
    ?_, hexDigit_hexChar _, hexDigit_hexChar _, hexDigit_hexChar _, hexDigit_hexChar _⟩
  · exact map_hexChar_subset [_, _, _, _, _, _, _, _, _]
  · rw [hexDigit_hexChar, regField, BitVec.ofFin_eq_ofNat]

/-- Settles O1. -/
theorem resetRegistersReadZero : Obligations.ResetRegistersReadZero :=
  RegFile.read_zero_file

/-- Settles O2: r0 has no cell. -/
theorem zeroRegisterIsHardWired : Obligations.ZeroRegisterIsHardWired :=
  ⟨fun s => RegFile.read_index_zero s.regs, fun _ _ => rfl⟩

/-- Settles O32. -/
theorem stepExecutesPresentedWord : Obligations.StepExecutesPresentedWord := by
  intro s w ps hinputs
  have hevent : s.nextEvent = .instruction w := State.nextEvent_of_cons hinputs
  rw [step_of_instruction hevent, State.advance_of_cons hinputs]

/-- Settles O44. -/
theorem resetIsTraceConsistent : Obligations.ResetIsTraceConsistent :=
  State.traceConsistent_of_cleared rfl rfl rfl

end Sys2Proof.Proofs
end

section
namespace Sys2Proof.Machine

/-! ## What a result depends on (40_step_and_writeback.md R61, R62) -/

/-- An instruction computes its result from the registers it names as sources, and from nothing else of the register file. -/
theorem resultOf_congr {i : Instr} {x y : RegFile} (hsrc1 : x.read i.src1 = y.read i.src1)
    (hsrc2 : ∀ t, i.src2 = some t → x.read t = y.read t) : resultOf i x = resultOf i y := by
  cases i with
  | add _ r t | sub _ r t | and _ r t | or _ r t | xor _ r t | sll _ r t | srl _ r t | sra _ r t =>
    have hr : x.read r = y.read r := hsrc1
    have ht : x.read t = y.read t := hsrc2 t rfl
    simp only [resultOf, hr, ht]
  | mov _ r _ | addi _ r _ | andi _ r _ | ori _ r _ | xori _ r _ | slli _ r _ | srli _ r _ | srai _ r _ =>
    have hr : x.read r = y.read r := hsrc1
    simp only [resultOf, hr]

/-! ## A run by its first sample (20_memory.md R37): what the sample leaves does not depend on the samples after it -/

/-- A run lists its own samples before the driver, in place of what the driver held. -/
theorem runSamples_with_inputs (s : State) (held ps : List Pins) :
    runSamples { s with inputs := held } ps = runSamples s ps := rfl

theorem runSamples_cons_of_reset {p : Pins} (h : p.event = .reset) (s : State) (ps : List Pins) :
    runSamples s (p :: ps) = runSamples State.reset ps := by
  have hevent : State.nextEvent { s with inputs := p :: ps } = .reset := h
  exact (runSamples_cons (step_of_reset hevent) rfl).trans (runSamples_with_inputs State.reset ps ps)

theorem runSamples_cons_of_idle {p : Pins} (h : p.event = .idle) (s : State) (ps : List Pins) :
    runSamples s (p :: ps) = runSamples s.advance ps := by
  have hevent : State.nextEvent { s with inputs := p :: ps } = .idle := h
  exact (runSamples_cons (step_of_idle hevent) rfl).trans (runSamples_with_inputs s.advance ps ps)

theorem runSamples_cons_of_instruction {p : Pins} {w : Word} (h : p.event = .instruction w) (s : State) (ps : List Pins) :
    runSamples s (p :: ps) = runSamples (s.advance.writeBack (decode w) (resultOf (decode w) s.regs)) ps := by
  have hevent : State.nextEvent { s with inputs := p :: ps } = .instruction w := h
  have hstep := (step_of_instruction hevent).trans (exec_eq_writeBack _ _)
  exact (runSamples_cons hstep rfl).trans
    (runSamples_with_inputs (s.advance.writeBack (decode w) (resultOf (decode w) s.regs)) ps ps)

/-- One state stands after the first sample, whatever samples follow it. -/
theorem exists_runSamples_cons (s : State) (p : Pins) : ∃ t, ∀ ps, runSamples s (p :: ps) = runSamples t ps := by
  cases hp : p.event with
  | reset => exact ⟨_, runSamples_cons_of_reset hp s⟩
  | idle => exact ⟨_, runSamples_cons_of_idle hp s⟩
  | instruction w => exact ⟨_, runSamples_cons_of_instruction hp s⟩

end Sys2Proof.Machine
end

/-! ## The statements about what a step reads and how a run is composed -/

section
namespace Sys2Proof.Proofs

open Sys2Proof Sys2Proof.Machine

/-- Settles O39: the record is write-back's, and its value is a result, which only the named registers decide. -/
theorem recordDependsOnNamedRegistersOnly : Obligations.RecordDependsOnNamedRegistersOnly := by
  intro i s s' hsrc1 hsrc2
  refine ⟨_, _, exec_eq_writeBack i s, exec_eq_writeBack i s', ?_, rfl⟩
  have hresult : resultOf i s.regs = resultOf i s'.regs := resultOf_congr hsrc1 hsrc2
  rw [State.writeBack_record, State.writeBack_record, hresult]

/-- Settles O48, by induction on the first part: its first sample leaves the same state whether or not the second part follows. -/
theorem runIsSequentialComposition : Obligations.RunIsSequentialComposition := by
  intro s t ps qs hrun
  induction ps generalizing s with
  | nil =>
    rw [runSamples_nil] at hrun
    cases hrun
    exact (runSamples_with_inputs s [] qs).symm
  | cons p ps ih =>
    obtain ⟨u, hu⟩ := exists_runSamples_cons s p
    rw [hu] at hrun
    rw [List.cons_append, hu, ih u hrun]

end Sys2Proof.Proofs
end

/-! ## The two directions of the code, and the opcode table (30_encoding.md R41, R45) -/

section
namespace Sys2Proof

@[simp] theorem decode_encode (i : Instr) : decode (encode i) = i := by
  cases i <;> simp [encode, decode]

@[simp] theorem src1Field_encode (i : Instr) : src1Field (encode i) = i.src1 := by
  cases i <;> exact src1Field_packWord ..

@[simp] theorem src1_decode (w : Word) : (decode w).src1 = src1Field w := by
  rw [← src1Field_encode, encode_decode]

/-- The mask of R45 keeps the opcode and clears the other three fields. -/
theorem packWord_and_opcodeMask (op : Nibble) (d s : RegIdx) (f : Nibble) :
    packWord op d s f &&& 0xF000 = packWord op 0 0 0 := by
  apply BitVec.eq_of_getLsbD_eq
  intro j hj
  rw [BitVec.getLsbD_and, packWord_getLsbD, packWord_getLsbD]
  interval_cases j <;> simp [regField]

theorem and_opcodeMask (w : Word) : w &&& 0xF000 = packWord (opcodeField w) 0 0 0 := by
  conv_lhs => rw [← packWord_fields w, packWord_and_opcodeMask]

/-- The row of the opcode table at an opcode number. -/
def rowAt (op : Nibble) : OpcodeRow := opcodeTable[op.toNat]'op.isLt

theorem rowAt_mem (op : Nibble) : rowAt op ∈ opcodeTable := List.getElem_mem _

/-- "the decoding mask is 0xF000 and the match value is `opcode << 12`" (30_encoding.md R45). -/
theorem rowAt_mask_and_pattern (op : Nibble) : (rowAt op).mask = 0xF000 ∧ (rowAt op).pattern = packWord op 0 0 0 := by
  revert op; decide

theorem exists_eq_rowAt : ∀ row ∈ opcodeTable, ∃ op, row = rowAt op := by
  decide

theorem rowAt_injective : Function.Injective rowAt := by
  have hinv : Function.LeftInverse (fun row => opcodeField row.pattern) rowAt := fun op => by
    simp [(rowAt_mask_and_pattern op).2]
  exact hinv.injective

theorem matchesWord_rowAt_iff (op : Nibble) (w : Word) : (rowAt op).matchesWord w = true ↔ op = opcodeField w := by
  obtain ⟨hmask, hpattern⟩ := rowAt_mask_and_pattern op
  rw [OpcodeRow.matchesWord, hmask, hpattern, and_opcodeMask, beq_iff_eq]
  constructor
  · intro h
    simpa using (congrArg opcodeField h).symm
  · rintro rfl
    rfl

/-- The opcode field alone decides which row a word matches (30_encoding.md R45). -/
theorem matchesWord_iff {row : OpcodeRow} (hrow : row ∈ opcodeTable) (w : Word) :
    row.matchesWord w = true ↔ row = rowAt (opcodeField w) := by
  obtain ⟨op, rfl⟩ := exists_eq_rowAt row hrow
  exact (matchesWord_rowAt_iff op w).trans rowAt_injective.eq_iff.symm

/-! ## What the row of an instruction says of it -/

theorem mnemonic_rowAt_encode (i : Instr) : (rowAt (opcodeField (encode i))).mnemonic = i.mnemonic := by
  cases i <;> simp only [encode, opcodeField_packWord] <;> rfl

theorem mnemonic_decode (w : Word) : (decode w).mnemonic = (rowAt (opcodeField w)).mnemonic := by
  rw [← mnemonic_rowAt_encode, encode_decode]

/-- The register-register class, and no other, names a second register: the one in `src2_field`. -/
theorem src2_eq_of_class (i : Instr) :
    i.src2 = if (rowAt (opcodeField (encode i))).cls = .registerRegister then some (src2Reg (encode i)) else none := by
  cases i <;> simp only [encode, opcodeField_packWord, src2Reg_packWord] <;> rfl

theorem src2_decode (w : Word) :
    (decode w).src2 = if (rowAt (opcodeField w)).cls = .registerRegister then some (src2Reg w) else none := by
  rw [src2_eq_of_class, encode_decode]

theorem nine_le_iff_registerImmediate (op : Nibble) : 0x9#4 ≤ op ↔ (rowAt op).cls = .registerImmediate := by
  revert op; decide

theorem aluOpOf_eq_mova_iff (op : Nibble) : aluOpOf op = .mova ↔ (rowAt op).cls = .move := by
  revert op; decide

/-! ## MOV words (30_encoding.md R47) -/

theorem decode_of_opcode_zero {w : Word} (h : opcodeField w = 0x0) :
    decode w = .mov (destField w) (src1Field w) (src2Field w) := by
  simp [decode, h]

/-- A field above the lowest one is a field of the word without its low four bits. -/
theorem extractLsb'_add_four (w : Word) (k : Nat) : w.extractLsb' (k + 4) 4 = (w >>> 4).extractLsb' k 4 := by
  apply BitVec.eq_of_getLsbD_eq
  intro j _
  rw [BitVec.getLsbD_extractLsb', BitVec.getLsbD_extractLsb', BitVec.getLsbD_ushiftRight]
  congr 2; omega

theorem upper_fields_eq_of_ushiftRight_eq {w w' : Word} (h : w >>> 4 = w' >>> 4) :
    opcodeField w = opcodeField w' ∧ destField w = destField w' ∧ src1Field w = src1Field w' := by
  have hfield (k : Nat) : w.extractLsb' (k + 4) 4 = w'.extractLsb' (k + 4) 4 := by
    rw [extractLsb'_add_four, h, extractLsb'_add_four]
  exact ⟨hfield 8, congrArg BitVec.toFin (hfield 4), congrArg BitVec.toFin (hfield 0)⟩

end Sys2Proof
end

/-! ## Assembly: each operand encodes as the field that reads back as what is written (30_encoding.md R51) -/

section
namespace Sys2Proof

open Sys2Proof.Machine

theorem regOperand_eq_some_iff (n : Nat) (r : RegIdx) : regOperand n = some r ↔ r.val = n := by
  unfold regOperand
  split
  · rw [Option.some_inj, Fin.ext_iff, eq_comm]
  · rename_i hn
    simp only [reduceCtorEq, false_iff]
    exact fun h => hn (h ▸ r.isLt)

@[simp] theorem regOperand_val (r : RegIdx) : regOperand r.val = some r :=
  (regOperand_eq_some_iff _ _).mpr rfl

@[simp] theorem regOperand_zero : regOperand 0 = some 0 := rfl

theorem regOperand_isSome (n : Nat) : (regOperand n).isSome = regInRange n := by
  unfold regOperand regInRange
  split <;> simp [*]

/-! The constants: the field is the one that extends to the written constant, and there is one exactly in the written range. -/

theorem signed_sext16 (f : Nibble) : signed (sext16 f) = f.toInt := by
  revert f; decide

theorem ofNat_toNat_sext16 (f : Nibble) : BitVec.ofNat 4 (sext16 f).toNat = f := by
  revert f; decide

theorem decimalOperand_eq_some_iff (k : Int) (f : Nibble) : decimalOperand k = some f ↔ signed (sext16 f) = k := by
  rw [signed_sext16]
  unfold decimalOperand
  constructor
  · split
    · rintro ⟨⟩
      rw [BitVec.toInt_ofInt]
      exact Int.bmod_eq_of_le (by omega) (by omega)
    · rintro ⟨⟩
  · rintro rfl
    have hlow := BitVec.le_toInt f
    have hhigh := BitVec.toInt_lt (x := f)
    rw [if_pos (by omega), BitVec.ofInt_toInt]

theorem decimalOperand_isSome (k : Int) : (decimalOperand k).isSome = decimalInRange k := by
  rw [Bool.eq_iff_iff, decimalOperand, Option.isSome_ite, decimalInRange, Bool.and_eq_true,
    decide_eq_true_iff, decide_eq_true_iff]

theorem patternOperand_eq_some_iff (p : Nat) (f : Nibble) : patternOperand p = some f ↔ unsigned (sext16 f) = p := by
  simp only [patternOperand, unsigned, Option.ite_none_right_eq_some, Option.some_inj]
  constructor
  · rintro ⟨h, rfl⟩
    exact h
  · rintro rfl
    rw [ofNat_toNat_sext16]
    exact ⟨rfl, rfl⟩

/-- The unsigned reading of an immediate: the two ranges of R51. -/
theorem unsigned_sext16 (f : Nibble) : unsigned (sext16 f) = if f.toNat < 8 then f.toNat else f.toNat + 0xFFF0 := by
  revert f; decide

theorem exists_unsigned_sext16_iff (p : Nat) : (∃ f, unsigned (sext16 f) = p) ↔ patternInRange p = true := by
  simp only [unsigned_sext16, patternInRange, Bool.or_eq_true, Bool.and_eq_true, decide_eq_true_eq]
  constructor
  · rintro ⟨f, rfl⟩
    have := f.isLt
    split <;> omega
  · intro h
    refine ⟨BitVec.ofNat 4 p, ?_⟩
    rw [BitVec.toNat_ofNat]
    split <;> omega

theorem patternOperand_isSome (p : Nat) : (patternOperand p).isSome = patternInRange p := by
  rw [Bool.eq_iff_iff, Option.isSome_iff_exists, ← exists_unsigned_sext16_iff]
  simp only [patternOperand_eq_some_iff]

theorem shamtOperand_eq_some_iff (n : Nat) (f : Nibble) : shamtOperand n = some f ↔ f.toNat = n := by
  simp only [shamtOperand, Option.ite_none_right_eq_some, Option.some_inj]
  constructor
  · rintro ⟨h, rfl⟩
    exact Nat.mod_eq_of_lt (Nat.lt_succ_of_le h)
  · rintro rfl
    exact ⟨Nat.le_of_lt_succ f.isLt, by rw [BitVec.ofNat_toNat, BitVec.setWidth_eq]⟩

theorem shamtOperand_isSome (n : Nat) : (shamtOperand n).isSome = shamtInRange n := by
  rw [Bool.eq_iff_iff, shamtOperand, Option.isSome_ite, shamtInRange, decide_eq_true_iff]

theorem immOperand_decimal (op : ImmOp) (k : Int) : immOperand op (.decimal k) = decimalOperand k := by
  cases op <;> rfl

theorem patternOperand_of_immOperand {op : ImmOp} {p : Nat} {f : Nibble} (h : immOperand op (.pattern p) = some f) :
    patternOperand p = some f := by
  cases op with
  | addi => cases h
  | andi | ori | xori => exact h

theorem immOperand_isSome (op : ImmOp) (k : ImmText) : (immOperand op k).isSome = k.allowedFor op := by
  cases k with
  | decimal k => rw [immOperand_decimal, decimalOperand_isSome, ImmText.allowedFor]
  | pattern p =>
    cases op with
    | addi => rfl
    | andi | ori | xori => exact patternOperand_isSome p

/-! The written forms: an instruction comes of its operands, each of which must encode. -/

theorem assemble_mov (d s : Nat) :
    assemble (.mov d s) = (regOperand d).bind fun d => (regOperand s).map fun s => .mov d s 0x0 := by
  rw [assemble]
  cases regOperand d <;> cases regOperand s <;> rfl

theorem assemble_reg (op : RegOp) (d s t : Nat) :
    assemble (.reg op d s t) =
      (regOperand d).bind fun d => (regOperand s).bind fun s => (regOperand t).map (op.instr d s) := by
  rw [assemble]
  cases regOperand d <;> cases regOperand s <;> cases regOperand t <;> rfl

theorem assemble_imm (op : ImmOp) (d s : Nat) (k : ImmText) :
    assemble (.imm op d s k) =
      (regOperand d).bind fun d => (regOperand s).bind fun s => (immOperand op k).map (op.instr d s) := by
  rw [assemble]
  cases regOperand d <;> cases regOperand s <;> cases immOperand op k <;> rfl

theorem assemble_shift (op : ShiftOp) (d s n : Nat) :
    assemble (.shift op d s n) =
      (regOperand d).bind fun d => (regOperand s).bind fun s => (shamtOperand n).map (op.instr d s) := by
  rw [assemble]
  cases regOperand d <;> cases regOperand s <;> cases shamtOperand n <;> rfl

/-- Three operands encode together exactly when each does. -/
theorem isSome_bind_bind_map {α β γ δ : Type} (a : Option α) (b : Option β) (c : Option γ) (f : α → β → γ → δ) :
    (a.bind fun x => b.bind fun y => c.map (f x y)).isSome = (a.isSome && b.isSome && c.isSome) := by
  cases a <;> cases b <;> simp

theorem bind_bind_map_regOperand_eq_some {α : Type} {d s : Nat} {c : Option α} {f : RegIdx → RegIdx → α → Instr} {i : Instr}
    (h : ((regOperand d).bind fun x => (regOperand s).bind fun y => c.map (f x y)) = some i) :
    ∃ rd rs x, rd.val = d ∧ rs.val = s ∧ c = some x ∧ i = f rd rs x := by
  simp only [Option.bind_eq_some_iff, Option.map_eq_some_iff, regOperand_eq_some_iff] at h
  obtain ⟨rd, hd, rs, hs, x, hx, rfl⟩ := h
  exact ⟨rd, rs, x, hd, hs, hx, rfl⟩

theorem assemble_isSome (a : AsmInstr) : (assemble a).isSome = a.wellFormed := by
  cases a with
  | mov d s =>
    rw [assemble_mov, AsmInstr.wellFormed, ← regOperand_isSome, ← regOperand_isSome]
    cases regOperand d <;> simp
  | reg op d s t =>
    rw [assemble_reg, isSome_bind_bind_map, regOperand_isSome, regOperand_isSome, regOperand_isSome, AsmInstr.wellFormed]
  | imm op d s k =>
    rw [assemble_imm, isSome_bind_bind_map, regOperand_isSome, regOperand_isSome, immOperand_isSome, AsmInstr.wellFormed]
  | shift op d s n =>
    rw [assemble_shift, isSome_bind_bind_map, regOperand_isSome, regOperand_isSome, shamtOperand_isSome, AsmInstr.wellFormed]

/-! What the instruction of a mnemonic names and carries. -/

section

variable (d s t : RegIdx) (f : Nibble)

@[simp] theorem RegOp.dest_instr (op : RegOp) : (op.instr d s t).dest = d := by cases op <;> rfl
@[simp] theorem RegOp.src1_instr (op : RegOp) : (op.instr d s t).src1 = s := by cases op <;> rfl
@[simp] theorem RegOp.src2_instr (op : RegOp) : (op.instr d s t).src2 = some t := by cases op <;> rfl

@[simp] theorem ImmOp.dest_instr (op : ImmOp) : (op.instr d s f).dest = d := by cases op <;> rfl
@[simp] theorem ImmOp.src1_instr (op : ImmOp) : (op.instr d s f).src1 = s := by cases op <;> rfl
@[simp] theorem ImmOp.src2Field_encode_instr (op : ImmOp) : src2Field (encode (op.instr d s f)) = f := by
  cases op <;> exact src2Field_packWord ..

@[simp] theorem ShiftOp.dest_instr (op : ShiftOp) : (op.instr d s f).dest = d := by cases op <;> rfl
@[simp] theorem ShiftOp.src1_instr (op : ShiftOp) : (op.instr d s f).src1 = s := by cases op <;> rfl
@[simp] theorem ShiftOp.src2Field_encode_instr (op : ShiftOp) : src2Field (encode (op.instr d s f)) = f := by
  cases op <;> exact src2Field_packWord ..

end

/-! ## Constants as the idioms use them (30_encoding.md R52) -/

theorem trunc16_signed (a : Word) : trunc16 (signed a) = a := by
  rw [trunc16, signed_eq_toInt, BitVec.ofInt_toInt]

theorem trunc16_unsigned (a : Word) : trunc16 (unsigned a) = a := by
  rw [trunc16, unsigned, BitVec.ofInt_natCast, BitVec.ofNat_toNat, BitVec.setWidth_eq]

theorem trunc16_unsigned_add (a : Word) (k : Int) : trunc16 (unsigned a + k) = add16 a (trunc16 k) := by
  rw [trunc16, BitVec.ofInt_add]
  exact congrArg (· + trunc16 k) (trunc16_unsigned a)

theorem trunc16_neg_unsigned (a : Word) : trunc16 (0 - (unsigned a : Int)) = sub16 0x0000 a := by
  rw [trunc16, Int.zero_sub, BitVec.ofInt_neg]
  exact congrArg (0x0000 - ·) (trunc16_unsigned a)

/-- A decimal in range assembles to the field that extends to it. -/
theorem exists_assemble_decimal (op : ImmOp) (d s : RegIdx) {k : Int} (hlow : -8 ≤ k) (hhigh : k ≤ 7) :
    ∃ f, assemble (.imm op d s (.decimal k)) = some (op.instr d s f) ∧ sext16 f = trunc16 k := by
  have hsome : (decimalOperand k).isSome = true := by simp [decimalOperand_isSome, decimalInRange, hlow, hhigh]
  obtain ⟨f, hf⟩ := Option.isSome_iff_exists.mp hsome
  refine ⟨f, by simp [assemble_imm, immOperand_decimal, hf], ?_⟩
  rw [← (decimalOperand_eq_some_iff k f).mp hf, trunc16_signed]

end Sys2Proof
end

section
namespace Sys2Proof.Proofs

open Sys2Proof Sys2Proof.Machine

/-- Settles O27, by the sixteen constructors: the opcode selects the constructor, and the fields are its operands. -/
theorem decodeOfEncodeIsIdentity : Obligations.DecodeOfEncodeIsIdentity :=
  decode_encode

/-- Settles O28: a word is its four fields, and each opcode's encoding packs them again. -/
theorem encodeOfDecodeIsIdentity : Obligations.EncodeOfDecodeIsIdentity :=
  encode_decode

/-- Settles O26: the matching row is the one at the word's opcode number. -/
theorem opcodeTableSelectsEveryWord : Obligations.OpcodeTableSelectsEveryWord := by
  intro w
  have hmem := rowAt_mem (opcodeField w)
  exact ⟨_, hmem, (matchesWord_iff hmem w).mpr rfl, mnemonic_decode w, fun q hq h => (matchesWord_iff hq w).mp h⟩

/-- Settles O31: the matching row is the one at the word's opcode number, and that row has the instruction's class. -/
theorem decoderOutputsFollowOperandClass : Obligations.DecoderOutputsFollowOperandClass := by
  intro w row hrow hmatch
  obtain rfl := (matchesWord_iff hrow w).mp hmatch
  refine ⟨?_, src2_decode w, aluOpOf_eq_mova_iff _, ?_, (src1_decode w).symm, (dest_decode w).symm⟩
  · exact decide_eq_true_iff.trans (nine_le_iff_registerImmediate _)
  · rw [dest_decode]
    exact decide_eq_true_iff

/-- Settles O30: both words are MOV with the same registers, so write-back differs only in the word it records. -/
theorem movIgnoresLowFourBits : Obligations.MovIgnoresLowFourBits := by
  intro w w' s hop hshift
  obtain ⟨hop', hdest, hsrc1⟩ := upper_fields_eq_of_ushiftRight_eq hshift
  have hresult : resultOf (decode w) s.regs = resultOf (decode w') s.regs := by
    rw [decode_of_opcode_zero hop, decode_of_opcode_zero (hop' ▸ hop), resultOf, resultOf, hsrc1]
  refine ⟨_, _, reportedValue (destField w) (resultOf (decode w) s.regs), exec_eq_writeBack _ s, exec_eq_writeBack _ s,
    ?_, ?_, ?_⟩
  · simp [hresult, hdest]
  · rw [State.writeBack_record, encode_decode, dest_decode]
  · rw [State.writeBack_record, encode_decode, dest_decode, hresult, hdest]

/-- Settles O35: write-back to r0 discards the value and reports 0. -/
theorem destinationZeroChangesNothing : Obligations.DestinationZeroChangesNothing := by
  intro w s hdest
  refine ⟨_, exec_eq_writeBack _ s, ?_, ?_, ?_, rfl⟩ <;> simp [hdest]

/-- Settles O55: a form assembles exactly when each of its operands encodes, and an operand encodes exactly in its range. -/
theorem assemblerAcceptsOperandsInRange : Obligations.AssemblerAcceptsOperandsInRange :=
  assemble_isSome

/-- Settles O56, form by form: an operand encodes as the field that reads back as what is written. -/
theorem assembledOperandsAreTheWrittenOnes : Obligations.AssembledOperandsAreTheWrittenOnes := by
  refine ⟨?mov, ?reg, ?decimal, ?pattern, ?shift⟩
  case mov =>
    intro d s i h
    simp only [assemble_mov, Option.bind_eq_some_iff, Option.map_eq_some_iff, regOperand_eq_some_iff] at h
    obtain ⟨rd, rfl, rs, rfl, rfl⟩ := h
    exact ⟨rfl, rfl, src2Field_packWord ..⟩
  case reg =>
    intro op d s t i h
    rw [assemble_reg] at h
    obtain ⟨rd, rs, rt, rfl, rfl, ht, rfl⟩ := bind_bind_map_regOperand_eq_some h
    simp [(regOperand_eq_some_iff t rt).mp ht]
  case decimal =>
    intro op d s k i h
    rw [assemble_imm, immOperand_decimal] at h
    obtain ⟨rd, rs, f, rfl, rfl, hf, rfl⟩ := bind_bind_map_regOperand_eq_some h
    simp [(decimalOperand_eq_some_iff k f).mp hf]
  case pattern =>
    intro op d s p i h
    rw [assemble_imm] at h
    obtain ⟨rd, rs, f, rfl, rfl, hf, rfl⟩ := bind_bind_map_regOperand_eq_some h
    simp [(patternOperand_eq_some_iff p f).mp (patternOperand_of_immOperand hf)]
  case shift =>
    intro op d s n i h
    rw [assemble_shift] at h
    obtain ⟨rd, rs, f, rfl, rfl, hf, rfl⟩ := bind_bind_map_regOperand_eq_some h
    simp [(shamtOperand_eq_some_iff n f).mp hf]

/-- Settles O57: each idiom assembles to an instruction whose result is what its table says. -/
theorem idiomsHaveTheirEffects : Obligations.IdiomsHaveTheirEffects := by
  refine ⟨?nop, ?li, ?clr, ?not, ?neg, ?subi⟩
  case nop => exact fun s => ⟨.mov 0 0 0, rfl, writesBack_of_result rfl rfl⟩
  case li =>
    intro d k s hlow hhigh
    obtain ⟨f, hasm, hf⟩ := exists_assemble_decimal .addi d 0 hlow hhigh
    refine ⟨_, hasm, writesBack_of_result rfl ?_⟩
    rw [← hf]
    exact (BitVec.zero_add _).symm
  case clr => exact fun d s => ⟨.mov d 0 0, by simp [idiomClr, assemble_mov], writesBack_of_result rfl rfl⟩
  case not =>
    intro d r s
    obtain ⟨f, hasm, hf⟩ := exists_assemble_decimal .xori d r (k := -1) (by decide) (by decide)
    refine ⟨_, hasm, writesBack_of_result rfl ?_⟩
    rw [ImmOp.instr, resultOf, hf]
    exact BitVec.xor_allOnes.symm
  case neg =>
    intro d r s
    exact ⟨.sub d 0 r, by simp [idiomNeg, assemble_reg, RegOp.instr], writesBack_of_result rfl (trunc16_neg_unsigned _)⟩
  case subi =>
    intro d r k s hlow hhigh
    obtain ⟨f, hasm, hf⟩ := exists_assemble_decimal .addi d r (k := -k) (by omega) (by omega)
    refine ⟨_, hasm, writesBack_of_result rfl ?_⟩
    rw [ImmOp.instr, resultOf, hf, Int.sub_eq_add_neg, trunc16_unsigned_add]
    rfl

/-- Settles O23, field by field. -/
theorem immediateIsSignExtended : Obligations.ImmediateIsSignExtended := by
  unfold Obligations.ImmediateIsSignExtended
  decide

/-- Settles O29, by decoding each word. -/
theorem decodeVectors : Obligations.DecodeVectors := by
  unfold Obligations.DecodeVectors
  decide

end Sys2Proof.Proofs
end

section
namespace Sys2Proof.Machine

/-! ## What a step leaves of the driver's samples (40_step_and_writeback.md R94) -/

/-- A step takes one sample, whatever it does. -/
theorem inputs_of_step {s t : State} (h : step s = .next t) : t.inputs = s.inputs.tail := by
  obtain ⟨-, rfl⟩ | ⟨-, rfl⟩ | ⟨w, -, rfl⟩ := step_cases h <;> rfl

/-! ## The drawn block, part by part (40_step_and_writeback.md R61 to R66, R69) -/

/-- The opcode's ALU function and operand-B selection compute the instruction's result (40_step_and_writeback.md R61 to R64). -/
theorem RegFile.destValue_encode (x : RegFile) (i : Instr) : x.destValue (decoderOutputs (encode i)) = resultOf i x := by
  cases i <;>
    simp only [RegFile.destValue, decoderOutputs, encode, opcodeField_packWord, src1Field_packWord, src2Reg_packWord,
      src2Field_packWord, regField_toFin] <;> rfl

theorem RegFile.destValue_decoderOutputs (x : RegFile) (w : Word) :
    x.destValue (decoderOutputs w) = resultOf (decode w) x := by
  rw [← RegFile.destValue_encode, encode_decode]

@[simp] theorem destReg_decoderOutputs (w : Word) : (decoderOutputs w).destReg = destField w := rfl

theorem wrEn_eq_true_iff (w : Word) : (decoderOutputs w).wrEn = true ↔ destField w ≠ 0 := decide_eq_true_iff

/-- `wr_en` is 0 only for r0, where an ungated write would be discarded too. -/
theorem RegFile.writePort_decoderOutputs (x : RegFile) (w : Word) (v : Word) :
    x.writePort (decoderOutputs w) v = x.write (destField w) v := by
  rw [RegFile.writePort]
  split
  case isTrue => rfl
  case isFalse h =>
    have hdest : destField w = 0 := by simpa [wrEn_eq_true_iff] using h
    rw [hdest, RegFile.write_index_zero]

/-- The value in the drawn block's record, gated by `wr_en`, is the reported value (40_step_and_writeback.md R66). -/
theorem ite_wrEn_eq_reportedValue (w v : Word) :
    (if (decoderOutputs w).wrEn then v else 0x0000) = reportedValue (destField w) v := by
  simp only [wrEn_eq_true_iff, reportedValue, ite_not]

/-- The drawn block is the decoded instruction's result, written and reported (40_step_and_writeback.md R60, R69). -/
theorem execute_eq (x : RegFile) (w : Word) :
    execute x w = (x.write (destField w) (resultOf (decode w) x),
      ⟨w, destField w, reportedValue (destField w) (resultOf (decode w) x)⟩) := by
  simp only [execute, RegFile.destValue_decoderOutputs, RegFile.writePort_decoderOutputs, ite_wrEn_eq_reportedValue,
    destReg_decoderOutputs]

/-- Executing a word in a state is what the drawn block makes of its register file; the samples are left as they are. -/
theorem exec_decode_eq_execute (w : Word) (s : State) :
    exec (decode w) s = .next
      { regs := (execute s.regs w).1
        inputs := s.inputs
        record := some (execute s.regs w).2
        trace := s.trace ++ [(execute s.regs w).2] } := by
  rw [exec_eq_writeBack, execute_eq, State.writeBack, dest_decode, encode_decode]
  rfl

end Sys2Proof.Machine
end

/-! ## The statements about the step and its write-back -/

section
namespace Sys2Proof.Proofs

open Sys2Proof Sys2Proof.Machine

/-- Settles O34: the value is the one the instruction computes, and write-back has the whole effect and frame. -/
theorem everyInstructionWritesBack : Obligations.EveryInstructionWritesBack :=
  fun i s => ⟨resultOf i s.regs, writesBack_of_result rfl rfl⟩

/-- Settles O38: a step always answers, and whatever it did it took one sample. -/
theorem nextWordIsAlwaysTheNextInOrder : Obligations.NextWordIsAlwaysTheNextInOrder := by
  intro s p ps hinputs
  obtain ⟨t, hstep⟩ := exists_step s
  refine ⟨t, hstep, ?_⟩
  rw [inputs_of_step hstep, hinputs, List.tail_cons]

/-- Settles O43: the step executes the presented word, and the drawn block's parts compute the result, the write and the record. -/
theorem blockDiagramComputesTheStep : Obligations.BlockDiagramComputesTheStep := by
  intro s w ps hinputs
  rw [stepExecutesPresentedWord s w ps hinputs, exec_decode_eq_execute]

end Sys2Proof.Proofs
end

section
namespace Sys2Proof.Machine

/-! ## A destination that is no source (40_step_and_writeback.md R61, R62, R65) -/

theorem RegFile.read_write_of_ne (x : RegFile) {d r : RegIdx} (h : r ≠ d) (v : Word) : (x.write d v).read r = x.read r := by
  rw [RegFile.read_write, if_neg (fun c => h c.1)]

/-- An instruction whose destination is none of its sources computes the same result again after a write to that destination. -/
theorem resultOf_write_dest {i : Instr} (hsrc1 : i.src1 ≠ i.dest) (hsrc2 : ∀ t, i.src2 = some t → t ≠ i.dest) (x : RegFile)
    (v : Word) : resultOf i (x.write i.dest v) = resultOf i x :=
  resultOf_congr (x.read_write_of_ne hsrc1 v) fun t ht => x.read_write_of_ne (hsrc2 t ht) v

end Sys2Proof.Machine
end

/-! ## The statements about MOV (41_mov.md) -/

section
namespace Sys2Proof.Proofs

open Sys2Proof Sys2Proof.Machine

/-- Settles O5: the word is the encoding of MOV with these operands, and MOV's result is what the source register reads. -/
theorem movCopiesSource : Obligations.MovCopiesSource :=
  fun d r ignored _ => ⟨decode_encode (.mov d r ignored), writesBack_of_result rfl rfl⟩

/-- Settles O41: the first MOV leaves its source alone, so the second has the same result, and write-back reports what the
destination then reads. -/
theorem movTwiceGivesSameValue : Obligations.MovTwiceGivesSameValue := by
  intro d r ignored s hdr
  have hresult (v : Word) : resultOf (.mov d r ignored) (s.regs.write d v) = resultOf (.mov d r ignored) s.regs :=
    resultOf_write_dest (i := .mov d r ignored) hdr.symm (fun _ ht => nomatch ht) s.regs v
  refine ⟨_, _, exec_eq_writeBack _ s, exec_eq_writeBack _ _, ?value, ?record⟩
  case value =>
    simp only [State.readReg_eq, State.writeBack_regs, Instr.dest, hresult, RegFile.read_write_self]
  case record =>
    simp only [State.writeBack_record, State.writeBack_regs, Instr.dest, hresult]

end Sys2Proof.Proofs
end

section
namespace Sys2Proof.Machine

/-! ## Addition and subtraction modulo 65536 (42_arith_reg.md R72) -/

theorem unsigned_trunc16 (k : Int) : (unsigned (trunc16 k) : Int) = k % 65536 := by
  rw [unsigned, trunc16, BitVec.toNat_ofInt]
  exact Int.toNat_of_nonneg (Int.emod_nonneg k (by decide))

theorem trunc16_sub (k l : Int) : trunc16 (k - l) = sub16 (trunc16 k) (trunc16 l) := by
  rw [trunc16, Int.sub_eq_add_neg, BitVec.ofInt_add, BitVec.ofInt_neg]
  exact (sub16_eq_add_neg _ _).symm

theorem add16_eq_trunc16_unsigned (a b : Word) : add16 a b = trunc16 ((unsigned a : Int) + unsigned b) := by
  rw [trunc16_unsigned_add, trunc16_unsigned]

theorem sub16_eq_trunc16_unsigned (a b : Word) : sub16 a b = trunc16 ((unsigned a : Int) - unsigned b) := by
  rw [trunc16_sub, trunc16_unsigned, trunc16_unsigned]

theorem add16_eq_trunc16_signed (a b : Word) : add16 a b = trunc16 (signed a + signed b) := by
  rw [trunc16, BitVec.ofInt_add]
  exact (congrArg₂ add16 (trunc16_signed a) (trunc16_signed b)).symm

/-- Two's complement negation is the bitwise complement plus one. -/
theorem sub16_eq_add16_not_add_one (a b : Word) : sub16 a b = add16 a (add16 (~~~b) 0x0001) := by
  rw [sub16_eq_add_neg, BitVec.neg_eq_not_add]
  rfl

end Sys2Proof.Machine
end

/-! ## The statements about addition and subtraction (42_arith_reg.md) -/

section
namespace Sys2Proof.Proofs

open Sys2Proof Sys2Proof.Machine

/-- Settles O21: the sum and the difference are truncations of the integer ones, in either reading, and truncation is the residue
modulo 65536. -/
theorem additionIsModulo65536 : Obligations.AdditionIsModulo65536 := by
  intro a b
  refine ⟨add16_toNat a b, ?residue, add16_eq_trunc16_signed a b, sub16_eq_trunc16 a b, sub16_eq_add16_not_add_one a b⟩
  case residue => rw [sub16_eq_trunc16_unsigned, unsigned_trunc16]

/-- Settles O6: the word is the encoding of ADD with these operands, and ADD's result is the truncated sum of the readings. -/
theorem addWrapsSum : Obligations.AddWrapsSum :=
  fun d r t _ => ⟨decode_encode (.add d r t), writesBack_of_result rfl (add16_eq_trunc16_unsigned _ _).symm⟩

/-- Settles O7: the word is the encoding of SUB with these operands, and SUB's result is the truncated difference of the readings. -/
theorem subWrapsDifference : Obligations.SubWrapsDifference :=
  fun d r t _ => ⟨decode_encode (.sub d r t), writesBack_of_result rfl (sub16_eq_trunc16_unsigned _ _).symm⟩

end Sys2Proof.Proofs
end

section
namespace Sys2Proof.Machine

/-! ## The bitwise functions of the ALU, bit by bit (43_logic_reg.md R75 to R77)

The operands are any two words, so these serve the forms with a sign-extended immediate too. -/

theorem and16_getLsbD_iff (a b : Word) (j : Nat) :
    (and16 a b).getLsbD j = true ↔ a.getLsbD j = true ∧ b.getLsbD j = true := by
  rw [and16, BitVec.getLsbD_and, Bool.and_eq_true]

theorem or16_getLsbD_iff (a b : Word) (j : Nat) :
    (or16 a b).getLsbD j = true ↔ a.getLsbD j = true ∨ b.getLsbD j = true := by
  rw [or16, BitVec.getLsbD_or, Bool.or_eq_true]

theorem xor16_getLsbD_iff (a b : Word) (j : Nat) :
    (xor16 a b).getLsbD j = true ↔ a.getLsbD j ≠ b.getLsbD j := by
  rw [xor16, BitVec.getLsbD_xor, Bool.xor_iff_ne]

end Sys2Proof.Machine
end

/-! ## The statements about AND, OR and XOR of two registers (43_logic_reg.md) -/

section
namespace Sys2Proof.Proofs

open Sys2Proof Sys2Proof.Machine

/-- Settles O8: the word is the encoding of AND with these operands, and AND's result has the bits both registers have. -/
theorem andIsBitwise : Obligations.AndIsBitwise :=
  fun d r t s => ⟨decode_encode (.and d r t), and16 (s.readReg r) (s.readReg t), writesBack_of_result rfl rfl,
    fun j _ => and16_getLsbD_iff _ _ j⟩

/-- Settles O9: the word is the encoding of OR with these operands, and OR's result has the bits either register has. -/
theorem orIsBitwise : Obligations.OrIsBitwise :=
  fun d r t s => ⟨decode_encode (.or d r t), or16 (s.readReg r) (s.readReg t), writesBack_of_result rfl rfl,
    fun j _ => or16_getLsbD_iff _ _ j⟩

/-- Settles O10: the word is the encoding of XOR with these operands, and XOR's result has the bits the registers differ in. -/
theorem xorIsBitwise : Obligations.XorIsBitwise :=
  fun d r t s => ⟨decode_encode (.xor d r t), xor16 (s.readReg r) (s.readReg t), writesBack_of_result rfl rfl,
    fun j _ => xor16_getLsbD_iff _ _ j⟩

end Sys2Proof.Proofs
end

section
namespace Sys2Proof.Machine

/-! ## The shifts as multiplication and division by a power of two (44_shift_reg.md R78) -/

theorem sll16_eq_trunc16 (a : Word) (n : Nat) : sll16 a n = trunc16 ((unsigned a : Int) * 2 ^ n) := by
  have hcast : (unsigned a : Int) * 2 ^ n = ((unsigned a * 2 ^ n : Nat) : Int) := by push_cast; rfl
  apply BitVec.eq_of_toNat_eq
  rw [hcast, trunc16, BitVec.ofInt_natCast, BitVec.toNat_ofNat, sll16, BitVec.toNat_shiftLeft, Nat.shiftLeft_eq, unsigned]

theorem unsigned_srl16 (a : Word) (n : Nat) : unsigned (srl16 a n) = unsigned a / 2 ^ n := by
  rw [unsigned, srl16, BitVec.toNat_ushiftRight, Nat.shiftRight_eq_div_pow, unsigned]

theorem srl16_eq_trunc16 (a : Word) (n : Nat) : srl16 a n = trunc16 ((unsigned a / 2 ^ n : Nat) : Int) := by
  rw [← unsigned_srl16, trunc16_unsigned]

/-- The divisor is positive, so rounding toward minus infinity is the division a shift of an integer does. -/
theorem sra16_eq_trunc16 (a : Word) (n : Nat) : sra16 a n = trunc16 (Int.fdiv (signed a) (2 ^ n)) := by
  rw [sra16, BitVec.sshiftRight, Int.shiftRight_eq_div_pow, Int.fdiv_eq_ediv_of_nonneg _ (by positivity),
    signed_eq_toInt, trunc16]
  push_cast
  rfl

/-! ## The amount of a register shift (44_shift_reg.md R79) -/

theorem shiftAmount_eq_toNat_extractLsb' (b : Word) : shiftAmount b = (b.extractLsb' 0 4).toNat := by
  rw [shiftAmount_eq_mod, BitVec.extractLsb'_toNat, Nat.shiftRight_zero]

theorem shiftAmount_eq_zero_iff (b : Word) : shiftAmount b = 0 ↔ b &&& 0x000F = 0 :=
  (BitVec.toNat_eq (x := b &&& 0x000F) (y := 0)).symm

/-! ## Where the right shifts differ (44_shift_reg.md R81, R82) -/

/-- With bit 15 clear, zeros are copies of bit 15; with it set, bit 15 of the two results differs as soon as anything moves. -/
theorem srl16_eq_sra16_iff (a : Word) (n : Nat) : srl16 a n = sra16 a n ↔ a.getLsbD 15 = false ∨ n = 0 := by
  constructor
  · intro heq
    refine or_iff_not_imp_right.mpr fun hn => ?_
    have hout : ¬ 15 + n ≤ 15 := by omega
    calc a.getLsbD 15
      _ = (sra16 a n).getLsbD 15 := by rw [sra16_getLsbD a n 15 (by decide), if_neg hout]
      _ = (srl16 a n).getLsbD 15 := by rw [heq]
      _ = false := by rw [srl16_getLsbD, if_neg hout]
  · rintro (hclear | rfl)
    · apply BitVec.eq_of_getLsbD_eq
      intro j hj
      rw [srl16_getLsbD, sra16_getLsbD a n j hj, hclear]
    · rw [srl16, sra16, BitVec.ushiftRight_zero, BitVec.sshiftRight_zero]

end Sys2Proof.Machine
end

/-! ## The statements about the shifts by a register (44_shift_reg.md) -/

section
namespace Sys2Proof.Proofs

open Sys2Proof Sys2Proof.Machine

/-- Settles O11: the word is the encoding of SLL with these operands, and SLL's result is the truncated product. -/
theorem sllMultipliesByPowerOfTwo : Obligations.SllMultipliesByPowerOfTwo :=
  fun d r t _ => ⟨decode_encode (.sll d r t), writesBack_of_result rfl (sll16_eq_trunc16 _ _).symm⟩

/-- Settles O12: the word is the encoding of SRL with these operands, and SRL's result is the unsigned quotient. -/
theorem srlDividesUnsigned : Obligations.SrlDividesUnsigned :=
  fun d r t _ => ⟨decode_encode (.srl d r t), writesBack_of_result rfl (srl16_eq_trunc16 _ _).symm⟩

/-- Settles O13: the word is the encoding of SRA with these operands, and SRA's result is the floor of the signed quotient. -/
theorem sraDividesSignedFloor : Obligations.SraDividesSignedFloor :=
  fun d r t _ => ⟨decode_encode (.sra d r t), writesBack_of_result rfl (sra16_eq_trunc16 _ _).symm⟩

/-- Settles O22: each shift bit by bit, and as a multiplication or division; the bound on the amount is not used. -/
theorem shiftsMoveBitsAndScale : Obligations.ShiftsMoveBitsAndScale :=
  fun a n _ => ⟨fun j hj => ⟨sll16_getLsbD a n j hj, srl16_getLsbD a n j, sra16_getLsbD a n j hj⟩,
    sll16_eq_trunc16 a n, unsigned_srl16 a n, sra16_eq_trunc16 a n⟩

/-- Settles O24: the register's masked amount is its low four bits, which are the field's amount, so each pair computes one value. -/
theorem shiftAmountIsLowFourBits : Obligations.ShiftAmountIsLowFourBits := by
  rintro d r t f s rfl
  have hamount : shiftAmount (s.readReg t) = shamtImm ((s.readReg t).extractLsb' 0 4) := by
    rw [shamtImm_eq_field, shiftAmount_eq_toNat_extractLsb']
  exact ⟨⟨_, writesBack_of_result rfl rfl, writesBack_of_result rfl (congrArg (sll16 (s.readReg r)) hamount)⟩,
    ⟨_, writesBack_of_result rfl rfl, writesBack_of_result rfl (congrArg (srl16 (s.readReg r)) hamount)⟩,
    ⟨_, writesBack_of_result rfl rfl, writesBack_of_result rfl (congrArg (sra16 (s.readReg r)) hamount)⟩⟩

/-- Settles O25: both write back their results, which are equal exactly when bit 15 is clear or the masked amount is 0. -/
theorem rightShiftsDifferOnlyOnNegatives : Obligations.RightShiftsDifferOnlyOnNegatives := by
  intro d r t s
  refine ⟨_, _, writesBack_of_result rfl rfl, writesBack_of_result rfl rfl, ?_⟩
  rw [← shiftAmount_eq_zero_iff]
  exact srl16_eq_sra16_iff (s.readReg r) (shiftAmount (s.readReg t))

end Sys2Proof.Proofs
end

section
namespace Sys2Proof.Machine

/-! ## The sign-extended immediate as operand 2 (45_arith_logic_imm.md R84, R85) -/

/-- The bits of the immediate: the field's own below bit 3, and copies of its sign bit from there up. -/
theorem sext16_getLsbD (f : Nibble) {j : Nat} (hj : j < 16) : (sext16 f).getLsbD j = f.getLsbD (min j 3) := by
  rw [sext16_eq_signExtend, BitVec.getLsbD_signExtend, decide_eq_true hj, Bool.true_and]
  split
  · rw [Nat.min_eq_left (by omega)]
  · rw [Nat.min_eq_right (by omega), BitVec.msb_eq_getLsbD_last]

theorem add16_sext16_eq_trunc16 (a : Word) (f : Nibble) : add16 a (sext16 f) = trunc16 ((unsigned a : Int) + f.toInt) := by
  rw [trunc16_unsigned_add, ← signed_sext16, trunc16_signed]

end Sys2Proof.Machine
end

/-! ## The statements about ADDI, ANDI, ORI and XORI (45_arith_logic_imm.md) -/

section
namespace Sys2Proof.Proofs

open Sys2Proof Sys2Proof.Machine

/-- Settles O14: the word is the encoding of ADDI with these operands, and ADDI's result is the truncated sum of the register's
reading and the field's signed one. -/
theorem addiWrapsSumWithImmediate : Obligations.AddiWrapsSumWithImmediate :=
  fun d r f _ => ⟨decode_encode (.addi d r f), writesBack_of_result rfl (add16_sext16_eq_trunc16 _ f).symm⟩

/-- Settles O15: the word is the encoding of ANDI with these operands, and ANDI's result has the bits the register and the
sign-extended field both have. -/
theorem andiUsesSignExtendedImmediate : Obligations.AndiUsesSignExtendedImmediate := by
  intro d r f s
  refine ⟨decode_encode (.andi d r f), and16 (s.readReg r) (sext16 f), writesBack_of_result rfl rfl, fun j hj => ?_⟩
  rw [and16_getLsbD_iff, sext16_getLsbD f hj]

/-- Settles O16: the word is the encoding of ORI with these operands, and ORI's result has the bits the register or the
sign-extended field has. -/
theorem oriUsesSignExtendedImmediate : Obligations.OriUsesSignExtendedImmediate := by
  intro d r f s
  refine ⟨decode_encode (.ori d r f), or16 (s.readReg r) (sext16 f), writesBack_of_result rfl rfl, fun j hj => ?_⟩
  rw [or16_getLsbD_iff, sext16_getLsbD f hj]

/-- Settles O17: the word is the encoding of XORI with these operands, and XORI's result has the bits in which the register and the
sign-extended field differ. -/
theorem xoriUsesSignExtendedImmediate : Obligations.XoriUsesSignExtendedImmediate := by
  intro d r f s
  refine ⟨decode_encode (.xori d r f), xor16 (s.readReg r) (sext16 f), writesBack_of_result rfl rfl, fun j hj => ?_⟩
  rw [xor16_getLsbD_iff, sext16_getLsbD f hj]

end Sys2Proof.Proofs
end

/-! ## The statements about SLLI, SRLI and SRAI (46_shift_imm.md)

Masking leaves a four-bit field as it is (R90), so each is the register shift's law at the field's amount. -/

section
namespace Sys2Proof.Proofs

open Sys2Proof Sys2Proof.Machine

/-- Settles O18: the word is the encoding of SLLI with these operands, and SLLI's result is the truncated product. -/
theorem slliMultipliesByPowerOfTwo : Obligations.SlliMultipliesByPowerOfTwo := by
  intro d r f s
  rw [← shamtImm_eq_field f]
  exact ⟨decode_encode (.slli d r f), writesBack_of_result rfl (sll16_eq_trunc16 _ _).symm⟩

/-- Settles O19: the word is the encoding of SRLI with these operands, and SRLI's result is the unsigned quotient. -/
theorem srliDividesUnsigned : Obligations.SrliDividesUnsigned := by
  intro d r f s
  rw [← shamtImm_eq_field f]
  exact ⟨decode_encode (.srli d r f), writesBack_of_result rfl (srl16_eq_trunc16 _ _).symm⟩

/-- Settles O20: the word is the encoding of SRAI with these operands, and SRAI's result is the floor of the signed quotient. -/
theorem sraiDividesSignedFloor : Obligations.SraiDividesSignedFloor := by
  intro d r f s
  rw [← shamtImm_eq_field f]
  exact ⟨decode_encode (.srai d r f), writesBack_of_result rfl (sra16_eq_trunc16 _ _).symm⟩

end Sys2Proof.Proofs
end

section
namespace Sys2Proof.Machine

/-! ## Reading an input text (10_state.md R22, 60_exceptions.md R104) -/

/-- A well-formed line at the head of a text is read, and the reading goes on behind it. -/
theorem parseInput_append_of_parseLine {l : List Char} {w : Word} (h : parseLine l = some w) (text : List Char) :
    parseInput (l ++ text) = (parseInput text).map (w :: ·) := by
  obtain ⟨a, b, c, d, -, -, -, -, rfl, -⟩ := parseLine_eq_some h
  simp only [List.cons_append, List.nil_append]
  rw [parseInput, h]
  cases parseInput text <;> rfl

theorem parseInput_flatten {ls : List (List Char)} {ws : List Word} (h : ls.map parseLine = ws.map some) :
    parseInput ls.flatten = some ws := by
  induction ls generalizing ws with
  | nil =>
    obtain rfl : ws = [] := List.map_eq_nil_iff.mp h.symm
    rfl
  | cons l ls ih =>
    obtain ⟨w, ws, rfl, hl, hls⟩ := List.map_eq_cons_iff.mp h.symm
    rw [List.flatten_cons, parseInput_append_of_parseLine hl.symm, ih hls.symm, Option.map_some]

theorem exists_lines_of_parseInput {text : List Char} {ws : List Word} (h : parseInput text = some ws) :
    ∃ ls : List (List Char), text = ls.flatten ∧ ls.map parseLine = ws.map some := by
  induction text using parseInput.induct generalizing ws with
  | case1 =>
    cases h
    exact ⟨[], rfl, rfl⟩
  | case2 a b c d t rest w vs hrest hline ih =>
    obtain ⟨ls, rfl, hls⟩ := ih hrest
    obtain rfl : w :: vs = ws := by simpa [parseInput, hline, hrest] using h
    exact ⟨[a, b, c, d, t] :: ls, rfl, by rw [List.map_cons, List.map_cons, hline, hls]⟩
  | case3 a b c d t rest hmalformed ih =>
    rw [parseInput] at h
    split at h
    case h_1 w vs hline hrest => exact absurd hrest (hmalformed w vs hline)
    case h_2 => cases h
  | case4 text hempty hshort =>
    rw [parseInput] at h
    · cases h
    · exact hempty
    · exact hshort

/-- A text reads as these words exactly when it is one well-formed line for each, in order. -/
theorem parseInput_eq_some_iff (text : List Char) (ws : List Word) :
    parseInput text = some ws ↔ ∃ ls : List (List Char), text = ls.flatten ∧ ls.map parseLine = ws.map some := by
  constructor
  · exact exists_lines_of_parseInput
  · rintro ⟨ls, rfl, hls⟩
    exact parseInput_flatten hls

theorem State.driveText_of_some {text : List Char} {ws : List Word} (h : parseInput text = some ws) (s : State) :
    s.driveText text = .next { s with inputs := runPins ws } := by
  rw [State.driveText, h]

theorem State.driveText_of_none {text : List Char} (h : parseInput text = none) (s : State) :
    s.driveText text = .refused .malformedInput := by
  rw [State.driveText, h]

end Sys2Proof.Machine
end

/-! ## The statements about exceptions and refusals (60_exceptions.md) -/

section
namespace Sys2Proof.Proofs

open Sys2Proof Sys2Proof.Machine

/-- Settles O37: every instruction answers its write-back, and a step resets, holds or executes one. -/
theorem stepAlwaysAnswersNextState : Obligations.StepAlwaysAnswersNextState :=
  ⟨fun i s => ⟨_, exec_eq_writeBack i s⟩, exists_step⟩

/-- Settles O53, by whether the text reads as words at all: it does exactly when it is a sequence of well-formed lines. -/
theorem malformedLineRefusesTheRun : Obligations.MalformedLineRefusesTheRun := by
  intro s text
  cases hread : parseInput text with
  | some ws =>
    obtain ⟨ls, htext, hls⟩ := (parseInput_eq_some_iff text ws).mp hread
    exact .inl ⟨ls, ws, htext, hls, State.driveText_of_some hread s⟩
  | none =>
    refine .inr ⟨State.driveText_of_none hread s, ?_⟩
    rintro ⟨ls, ws, hlines⟩
    have hsome := (parseInput_eq_some_iff text ws).mpr ⟨ls, hlines⟩
    cases hread.symm.trans hsome

end Sys2Proof.Proofs
end

section
namespace Sys2Proof.Machine

/-! ## A step after the last sample (70_reset_and_hazards.md R123) -/

theorem State.advance_of_nil {s : State} (h : s.inputs = []) : s.advance = { s with record := none } := by
  rw [State.advance, h, List.tail_nil, ← h]

/-! ## OR with r0 (43_logic_reg.md R76, 10_state.md R11) -/

theorem resultOf_or_zero (d r : RegIdx) (x : RegFile) : resultOf (.or d r 0) x = x.read r :=
  BitVec.or_zero

theorem resultOf_or_zero_left (d r : RegIdx) (x : RegFile) : resultOf (.or d 0 r) x = x.read r :=
  BitVec.zero_or

/-! ## Idle samples in a run (70_reset_and_hazards.md R128) -/

/-- Two states show a program the same: they have the same registers and the same records. The record on the pins and the driver's
samples, which a step replaces, may differ. -/
def State.SameRegsAndTrace (s s' : State) : Prop := s.regs = s'.regs ∧ s.trace = s'.trace

namespace State.SameRegsAndTrace

theorem refl (s : State) : s.SameRegsAndTrace s := ⟨rfl, rfl⟩

theorem advance_left {s s' : State} (h : s.SameRegsAndTrace s') : s.advance.SameRegsAndTrace s' := h

theorem advance {s s' : State} (h : s.SameRegsAndTrace s') : s.advance.SameRegsAndTrace s'.advance := h

theorem writeBack_resultOf {s s' : State} (h : s.SameRegsAndTrace s') (i : Instr) :
    (s.writeBack i (resultOf i s.regs)).SameRegsAndTrace (s'.writeBack i (resultOf i s'.regs)) := by
  obtain ⟨hregs, htrace⟩ := h
  constructor
  · rw [State.writeBack_regs, State.writeBack_regs, hregs]
  · rw [State.writeBack_trace, State.writeBack_trace, hregs, htrace]

end State.SameRegsAndTrace

/-- An idle sample changes nothing the two runs have in common, and any other sample does the same to both. -/
theorem exists_runSamples_filter_not_idle {s s' : State} (h : s.SameRegsAndTrace s') (ps : List Pins) :
    ∃ t u, runSamples s ps = .next t ∧ runSamples s' (ps.filter fun p => p.event ≠ .idle) = .next u ∧
      t.SameRegsAndTrace u := by
  induction ps generalizing s s' with
  | nil => exact ⟨_, _, runSamples_nil s, runSamples_nil s', h⟩
  | cons p ps ih =>
    cases hp : p.event with
    | reset =>
      rw [List.filter_cons_of_pos (by simp [hp]), runSamples_cons_of_reset hp, runSamples_cons_of_reset hp]
      exact ih (.refl State.reset)
    | idle =>
      rw [List.filter_cons_of_neg (by simp [hp]), runSamples_cons_of_idle hp]
      exact ih h.advance_left
    | instruction w =>
      rw [List.filter_cons_of_pos (by simp [hp]), runSamples_cons_of_instruction hp, runSamples_cons_of_instruction hp]
      exact ih (h.advance.writeBack_resultOf (decode w))

/-! ## The driver's pass over a text (70_reset_and_hazards.md R122, R123) -/

/-- Whatever the core held, the driver runs the words of the text from the reset state. -/
theorem runSamples_runPins (s : State) (ws : List Word) :
    runSamples s (runPins ws) = runSamples State.reset (ws.map Pins.present) :=
  runSamples_cons_of_reset Pins.event_assertReset s _

/-- The driver's output is the trace text of the run over its samples. -/
theorem State.driverOutput_of_run {s u : State} {text : List Char} {ws : List Word} (hread : parseInput text = some ws)
    (hrun : runSamples s (runPins ws) = .next u) : s.driverOutput text = .next (traceText u.trace) := by
  have hcore : Sys2Proof.core.run (runPins ws).length { s with inputs := runPins ws } = .next u := hrun
  simp only [State.driverOutput, State.driveText_of_some hread, hcore]

end Sys2Proof.Machine
end

/-! ## The statements about reset, idle steps and what follows a write (70_reset_and_hazards.md) -/

section
namespace Sys2Proof.Proofs

open Sys2Proof Sys2Proof.Machine

/-- Settles O40: the destination reads as the value its record reported, and OR with r0 gives what the other register reads. -/
theorem nextInstructionSeesWrittenValue : Obligations.NextInstructionSeesWrittenValue := by
  intro i d s _
  have hread : (s.regs.write i.dest (resultOf i s.regs)).read i.dest = reportedValue i.dest (resultOf i s.regs) :=
    RegFile.read_write_self ..
  refine ⟨_, _, exec_eq_writeBack i s, State.writeBack_record .., writesBack_of_result rfl ?_, writesBack_of_result rfl ?_⟩
  · rw [resultOf_or_zero, State.writeBack_regs, hread]
  · rw [resultOf_or_zero_left, State.writeBack_regs, hread]

/-- Settles O46: an idle step only advances, and the two runs keep the same registers and records, sample by sample. -/
theorem idleStepsAreInvisible : Obligations.IdleStepsAreInvisible := by
  constructor
  · intro s p ps hinputs hidle
    exact ⟨_, step_of_idle ((State.nextEvent_of_cons hinputs).trans hidle), rfl, rfl, rfl⟩
  · exact fun s ps => exists_runSamples_filter_not_idle (.refl s) ps

/-- Settles O49, by induction on the earlier samples: each leaves some state, and the reset forgets whatever state that is. -/
theorem resetForgetsTheEarlierRun : Obligations.ResetForgetsTheEarlierRun := by
  intro s ps qs p hrst
  induction ps generalizing s with
  | nil => exact runSamples_cons_of_reset (Pins.event_of_rst hrst) s qs
  | cons q ps ih =>
    obtain ⟨t, ht⟩ := exists_runSamples_cons s q
    rw [List.cons_append, ht, ih]

/-- Settles O54: the driver resets the core, and the run of the words from there yields one record a word. -/
theorem driverWritesOneTraceLinePerWord : Obligations.DriverWritesOneTraceLinePerWord := by
  intro s text ws hread
  obtain ⟨t, rs, hrun, htrace, hwords⟩ := runYieldsOneRecordPerWordInOrder State.reset ws
  have htrace : t.trace = rs := htrace
  refine ⟨rs, ?_, hwords⟩
  rw [State.driverOutput_of_run hread ((runSamples_runPins s ws).trans hrun), htrace, traceText]

/-- Settles O3: `rst` asks for a reset whatever `instr_valid` is, and a reset keeps only the later samples. -/
theorem assertedResetStartsNewRun : Obligations.AssertedResetStartsNewRun := by
  intro s p ps hinputs hrst
  have hevent : s.nextEvent = .reset := (State.nextEvent_of_cons hinputs).trans (Pins.event_of_rst hrst)
  refine ⟨_, step_of_reset hevent, RegFile.read_zero_file, rfl, rfl, ?_⟩
  rw [State.takeReset_inputs, hinputs, List.tail_cons]

/-- Settles O4: in both cases the step is idle, and an idle step only advances. -/
theorem coreHoldsWhenNothingIsPresented : Obligations.CoreHoldsWhenNothingIsPresented := by
  constructor
  · intro s p ps hinputs hrst hvalid
    have hidle : p.event = .idle := (Pins.event_eq_idle_iff p).mpr ⟨hrst, hvalid⟩
    rw [step_of_idle ((State.nextEvent_of_cons hinputs).trans hidle), State.advance_of_cons hinputs]
  · intro s hinputs
    rw [step_of_idle (State.nextEvent_of_nil hinputs), State.advance_of_nil hinputs]

end Sys2Proof.Proofs
end
